-- ==== Sys2Proof/Word.lean ====
section
/-! DEFINITION. The widths every other file is written in: the 16-bit word, the 8-bit byte and the port number of SISA-F
(00_scope.md R7, R17; 10_state.md R45). -/

namespace Sys2Proof

/-- A 16-bit vector: a register, an address, an instruction word, a float ("palabra", 00_scope.md R7 and R17). -/
abbrev Word := BitVec 16

/-- An 8-bit vector: the addressable unit of memory (00_scope.md R17). -/
abbrev Byte := BitVec 8

/-- A port number of the input or of the output space, 0 to 255 (10_state.md R45). -/
abbrev Port := Fin 256

end Sys2Proof
end

