-- ==== Sys2Proof/Config.lean ====
section
/-! DEFINITION. What the architecture does not fix: the types of the parameters of 92_eei_decisions.md section 2 (their
values stand in Machine/Params.lean and Machine/FloatArith.lean), the inputs the environment presents at a step, and the
FREE VALUES: constants without a body, about which nothing can be proved (00_scope.md R13 `any16`). -/

namespace Sys2Proof

/-- `FIXED_FIELD_POLICY`: what a word does whose meaningless field does not hold its fixed value (30_encoding.md R108). -/
inductive FixedFieldPolicy where
  /-- the word is not a defined instruction -/
  | illegal
  /-- the field is not decoded -/
  | ignore
deriving DecidableEq, Repr

/-- `HALT_BEHAVIOUR`: what the halted machine does (47_io_and_special.md R262). -/
inductive HaltBehaviour where
  /-- HALT is the end of the run -/
  | terminal
  /-- the platform says how the machine goes on, and the spec makes no claim -/
  | platformDefined
deriving DecidableEq, Repr

/-- What `MEM_MAP` says of one address (20_memory.md R72). -/
inductive MemKind where
  | ram
  | rom
  | absent
deriving DecidableEq, Repr

/-- The three outcomes of a floating-point operation (41_float.md R157). -/
inductive FloatOutcome where
  | value (v : Word)
  | overflow
  | divZero
deriving DecidableEq, Repr

/-- `FLOAT_ARITH`: the four operations as total functions of the two operand vectors (41_float.md R158). -/
structure FloatArith where
  fadd : Word → Word → FloatOutcome
  fsub : Word → Word → FloatOutcome
  fmul : Word → Word → FloatOutcome
  fdiv : Word → Word → FloatOutcome

/-- What the environment presents to the processor during one machine step: the interrupt request line `int_req`
(10_state.md R48), the identifier a device answers GETIID with (60_exceptions.md R284), and the contents of the 256
input registers (10_state.md R45, R47). -/
structure EnvInputs where
  intReq  : Bool
  iid     : Word
  inPorts : Vector Word 256
deriving DecidableEq, Repr, Inhabited

/-- FREE VALUE. The quotient of 0x8000 / 0xFFFF by DIV, drawn anew at each step (40_arith_logic.md R136). Log entry 1. -/
opaque Config.divOverflowValue : Nat → Word

/-- FREE VALUE. What F[d] receives when an overflow is inhibited, drawn anew at each step (41_float.md R157).
Log entry 2. -/
opaque Config.floatOverflowValue : Nat → Word

/-- FREE VALUE. What GETIID writes when no request is pending (47_io_and_special.md R247). Log entry 3. -/
opaque Config.strayInterruptId : Nat → Word

/-- FREE VALUE. What the environment presents at a step (60_exceptions.md R283, 47_io_and_special.md R241).
Log entry 4. -/
opaque Config.environment : Nat → EnvInputs

/-- FREE VALUE. The content of a memory byte that neither the program's loading nor a store has written, by address
(10_state.md R51, 93_implementation_defined.md U6). Log entry 5. -/
opaque Config.initialByte : Nat → Byte

end Sys2Proof
end

