-- ==== Sys2Proof/Machine/Params.lean ====
section
/-! DEFINITION. The values of the parameters of 92_eei_decisions.md section 2, each at the spec's default (FLOAT_ARITH
stands in Machine/FloatArith.lean), and the value a register without a stated reset value is given. -/

namespace Sys2Proof.Machine

/-- `RESET_PC`, an even address, default 0x0000 (70_reset_and_hazards.md R311). -/
def resetPc : Word := 0x0000#16

/-- `RESET_PSW`, default 0x0000 (70_reset_and_hazards.md R311). -/
def resetPsw : Word := 0x0000#16

/-- DESIGN CHOICE, unsafe, log entry 6. What a register holds after reset for which the spec states no value. The spec
gives none and says "never zero" (10_state.md R51), so a value that is not zero. -/
def resetWord : Word := 0x5A5A#16

/-- `FIXED_FIELD_POLICY`, default `illegal` (30_encoding.md R108, decision D2). Log entry 7. -/
def fixedFieldPolicy : FixedFieldPolicy := .illegal

/-- `IO_SHARED`, default false for every port (10_state.md R47, decision D17). Log entry 8. -/
def ioShared (_ : Port) : Bool := false

/-- Whether the platform says that a port for which `IO_SHARED` holds is a plain register, which returns what was written to
it (10_state.md R47). The default is no platform's word, so false for every port. DESIGN CHOICE, log entry 8. -/
def portIsPlainRegister (_ : Port) : Bool := false

/-- `HALT_BEHAVIOUR`, default `terminal` (47_io_and_special.md R262, decision D15). Log entry 9. -/
def haltBehaviour : HaltBehaviour := .terminal

/-- `MEM_MAP`, default read/write memory at every address (20_memory.md R72, decision D18). Log entry 10. -/
def memMap (_ : Word) : MemKind := .ram

end Sys2Proof.Machine
end

