-- ==== Sys2Proof/Syntax.lean ====
section
/-! DEFINITION. The 49 instructions of SISA-F, one constructor per row of spec/opcode_table.json, with the operands each
names (00_scope.md R3; 30_encoding.md R111). -/

namespace Sys2Proof

/-- A general register R0 to R7 (10_state.md R21). -/
structure GReg where
  num : Fin 8
deriving DecidableEq, Repr

/-- A floating-point register F0 to F7 (10_state.md R29). -/
structure FReg where
  num : Fin 8
deriving DecidableEq, Repr

/-- A special register S0 to S7 (10_state.md R30). -/
structure SReg where
  num : Fin 8
deriving DecidableEq, Repr

/-- The instructions. `d` is a destination, `a` and `b` are sources, as the fields ddd, aaa and bbb of 30_encoding.md R95.
An `n : Int` is the two's complement reading of the field N (30_encoding.md R97 and R98): -32 to 31 in the 2-Reg format,
-128 to 127 in the 1-Reg format; WellFormed.lean checks the range. The N of MOVHI is a bit vector and the N of IN and
OUT a natural (R98). -/
inductive Instr where
  -- operation code 0000, logic and arithmetic
  | and (d a b : GReg)
  | or (d a b : GReg)
  | xor (d a b : GReg)
  | not (d a : GReg)
  | add (d a b : GReg)
  | sub (d a b : GReg)
  | sha (d a b : GReg)
  | shl (d a b : GReg)
  -- operation code 0001, comparisons of integers and naturals
  | cmplt (d a b : GReg)
  | cmple (d a b : GReg)
  | cmpeq (d a b : GReg)
  | cmpltu (d a b : GReg)
  | cmpleu (d a b : GReg)
  -- operation codes 0010 to 0100
  | addi (d a : GReg) (n : Int)
  | ld (d a : GReg) (n : Int)
  | st (b a : GReg) (n : Int)
  -- operation code 0101, move immediate
  | movi (d : GReg) (n : Int)
  | movhi (d : GReg) (n : BitVec 8)
  -- operation code 0110, branches relative to the PC
  | bz (b : GReg) (n : Int)
  | bnz (b : GReg) (n : Int)
  -- operation code 0111, input and output
  | inp (d : GReg) (p : Port)
  | out (b : GReg) (p : Port)
  -- operation code 1000, arithmetic extension
  | mul (d a b : GReg)
  | mulh (d a b : GReg)
  | mulhu (d a b : GReg)
  | div (d a b : GReg)
  | divu (d a b : GReg)
  -- operation code 1001, floating point
  | addf (d a b : FReg)
  | subf (d a b : FReg)
  | mulf (d a b : FReg)
  | divf (d a b : FReg)
  | cmpltf (d : GReg) (a b : FReg)
  | cmplef (d : GReg) (a b : FReg)
  | cmpeqf (d : GReg) (a b : FReg)
  -- operation code 1010, jumps through a register
  | jz (b a : GReg)
  | jnz (b a : GReg)
  | jmp (a : GReg)
  | jal (d a : GReg)
  -- operation codes 1011 to 1110
  | ldf (d : FReg) (a : GReg) (n : Int)
  | stf (b : FReg) (a : GReg) (n : Int)
  | ldb (d a : GReg) (n : Int)
  | stb (b a : GReg) (n : Int)
  -- operation code 1111, special instructions
  | ei
  | di
  | reti
  | getiid (d : GReg)
  | rds (d : GReg) (a : SReg)
  | wrs (d : SReg) (a : GReg)
  | halt
deriving DecidableEq, Repr

end Sys2Proof
end

