-- ==== Sys2Proof/WellFormed.lean ====
section
/-! DEFINITION. Which terms of Instr have an encoding: the ranges of the signed field N (30_encoding.md R97, R98, R112).
Register numbers, ports and the byte of MOVHI are in range by their types. -/

namespace Sys2Proof

/-- A 6-bit two's complement field holds -32 to 31 (30_encoding.md R97). -/
def fitsField6 (n : Int) : Bool := decide (-32 ≤ n) && decide (n ≤ 31)

/-- An 8-bit two's complement field holds -128 to 127 (30_encoding.md R98). -/
def fitsField8 (n : Int) : Bool := decide (-128 ≤ n) && decide (n ≤ 127)

/-- The instruction has an encoding. -/
def WellFormed : Instr → Bool
  | .addi _ _ n | .ld _ _ n | .st _ _ n | .ldb _ _ n | .stb _ _ n => fitsField6 n
  | .ldf _ _ n | .stf _ _ n => fitsField6 n
  | .movi _ n | .bz _ n | .bnz _ n => fitsField8 n
  | .and _ _ _ | .or _ _ _ | .xor _ _ _ | .not _ _ | .add _ _ _ | .sub _ _ _ | .sha _ _ _ | .shl _ _ _
  | .cmplt _ _ _ | .cmple _ _ _ | .cmpeq _ _ _ | .cmpltu _ _ _ | .cmpleu _ _ _
  | .movhi _ _ | .inp _ _ | .out _ _
  | .mul _ _ _ | .mulh _ _ _ | .mulhu _ _ _ | .div _ _ _ | .divu _ _ _
  | .addf _ _ _ | .subf _ _ _ | .mulf _ _ _ | .divf _ _ _ | .cmpltf _ _ _ | .cmplef _ _ _ | .cmpeqf _ _ _
  | .jz _ _ | .jnz _ _ | .jmp _ | .jal _ _
  | .ei | .di | .reti | .getiid _ | .rds _ _ | .wrs _ _ | .halt => true

end Sys2Proof
end

