-- ==== Sys2Proof/Decode.lean ====
section
/-! DEFINITION. The decoder (30_encoding.md R90 to R108), total on every word, and after it the encoder and the opcode table
as data. -/

namespace Sys2Proof

/-- Why a word, or a run of bytes, is no instruction. Every rejected word raises the illegal-instruction exception
(60_exceptions.md R272). -/
inductive DecodeReject where
  /-- a reserved function code (30_encoding.md R105) -/
  | reservedFunction
  /-- a field without meaning does not hold its fixed value (30_encoding.md R96, R108) -/
  | fixedField
  /-- fewer than the two bytes of a word -/
  | truncated
deriving DecidableEq, Repr

/-- `I[lo+len-1 : lo]` (00_scope.md R10). -/
def slice (w : Word) (lo len : Nat) : BitVec len := w.extractLsb' lo len

/-- The general register a 3-bit field names: the unsigned value of the field (30_encoding.md R95). -/
def gregOf (f : BitVec 3) : GReg := ⟨f.toFin⟩

/-- The floating-point register a 3-bit field names (30_encoding.md R95). -/
def fregOf (f : BitVec 3) : FReg := ⟨f.toFin⟩

/-- The special register a 3-bit field names (30_encoding.md R95). -/
def sregOf (f : BitVec 3) : SReg := ⟨f.toFin⟩

/-- Accepts `i` when the fixed field holds its value, and otherwise as the policy says (30_encoding.md R108). -/
def withFixedField (p : FixedFieldPolicy) (holds : Bool) (i : Instr) : Except DecodeReject Instr :=
  if holds then .ok i
  else
    match p with
    | .illegal => .error .fixedField
    | .ignore => .ok i

/-- Operation code 0000 by `fff` (30_encoding.md R100); NOT has `bbb` = 000 (R96). -/
def decodeLogic (p : FixedFieldPolicy) (fff d a b : BitVec 3) : Except DecodeReject Instr :=
  match fff.toNat with
  | 0 => .ok (.and (gregOf d) (gregOf a) (gregOf b))
  | 1 => .ok (.or (gregOf d) (gregOf a) (gregOf b))
  | 2 => .ok (.xor (gregOf d) (gregOf a) (gregOf b))
  | 3 => withFixedField p (b == 0b000#3) (.not (gregOf d) (gregOf a))
  | 4 => .ok (.add (gregOf d) (gregOf a) (gregOf b))
  | 5 => .ok (.sub (gregOf d) (gregOf a) (gregOf b))
  | 6 => .ok (.sha (gregOf d) (gregOf a) (gregOf b))
  | _ => .ok (.shl (gregOf d) (gregOf a) (gregOf b))

/-- Operation code 0001 by `fff` (30_encoding.md R100). -/
def decodeCompare (fff d a b : BitVec 3) : Except DecodeReject Instr :=
  match fff.toNat with
  | 0 => .ok (.cmplt (gregOf d) (gregOf a) (gregOf b))
  | 1 => .ok (.cmple (gregOf d) (gregOf a) (gregOf b))
  | 3 => .ok (.cmpeq (gregOf d) (gregOf a) (gregOf b))
  | 4 => .ok (.cmpltu (gregOf d) (gregOf a) (gregOf b))
  | 5 => .ok (.cmpleu (gregOf d) (gregOf a) (gregOf b))
  | _ => .error .reservedFunction

/-- Operation code 1000 by `fff` (30_encoding.md R100). -/
def decodeMulDiv (fff d a b : BitVec 3) : Except DecodeReject Instr :=
  match fff.toNat with
  | 0 => .ok (.mul (gregOf d) (gregOf a) (gregOf b))
  | 1 => .ok (.mulh (gregOf d) (gregOf a) (gregOf b))
  | 2 => .ok (.mulhu (gregOf d) (gregOf a) (gregOf b))
  | 4 => .ok (.div (gregOf d) (gregOf a) (gregOf b))
  | 5 => .ok (.divu (gregOf d) (gregOf a) (gregOf b))
  | _ => .error .reservedFunction

/-- Operation code 1001 by `fff` (30_encoding.md R100). -/
def decodeFloat (fff d a b : BitVec 3) : Except DecodeReject Instr :=
  match fff.toNat with
  | 0 => .ok (.addf (fregOf d) (fregOf a) (fregOf b))
  | 1 => .ok (.subf (fregOf d) (fregOf a) (fregOf b))
  | 2 => .ok (.mulf (fregOf d) (fregOf a) (fregOf b))
  | 3 => .ok (.divf (fregOf d) (fregOf a) (fregOf b))
  | 4 => .ok (.cmpltf (gregOf d) (fregOf a) (fregOf b))
  | 5 => .ok (.cmplef (gregOf d) (fregOf a) (fregOf b))
  | 7 => .ok (.cmpeqf (gregOf d) (fregOf a) (fregOf b))
  | _ => .error .reservedFunction

/-- Operation code 1010 by `I[5:0]`: I[5:3] = 000 and fff = I[2:0] (30_encoding.md R102); JMP has I[11:9] = 000 (R96). -/
def decodeJump (p : FixedFieldPolicy) (fn : BitVec 6) (hi a : BitVec 3) : Except DecodeReject Instr :=
  match fn.toNat with
  | 0 => .ok (.jz (gregOf hi) (gregOf a))
  | 1 => .ok (.jnz (gregOf hi) (gregOf a))
  | 3 => withFixedField p (hi == 0b000#3) (.jmp (gregOf a))
  | 4 => .ok (.jal (gregOf hi) (gregOf a))
  | _ => .error .reservedFunction

/-- Operation code 1111 by `I[5:0]` (30_encoding.md R103). A word of function 11111 whose I[11:6] is not 111111 is illegal
under both policies (92_eei_decisions.md D2). -/
def decodeSpecial (p : FixedFieldPolicy) (fn : BitVec 6) (hi a : BitVec 3) : Except DecodeReject Instr :=
  match fn.toNat with
  | 0x20 => withFixedField p (hi == 0b000#3 && a == 0b000#3) .ei
  | 0x21 => withFixedField p (hi == 0b000#3 && a == 0b000#3) .di
  | 0x24 => withFixedField p (hi == 0b000#3 && a == 0b000#3) .reti
  | 0x28 => withFixedField p (a == 0b000#3) (.getiid (gregOf hi))
  | 0x2C => .ok (.rds (gregOf hi) (sregOf a))
  | 0x30 => .ok (.wrs (sregOf hi) (gregOf a))
  | 0x3F => withFixedField .illegal (hi == 0b111#3 && a == 0b111#3) .halt
  | _ => .error .reservedFunction

/-- The decoding algorithm under a fixed-field policy (30_encoding.md R104), total on all 2^16 words. -/
def decodeWith (p : FixedFieldPolicy) (w : Word) : Except DecodeReject Instr :=
  let hi := slice w 9 3
  let a := slice w 6 3
  let f := slice w 3 3
  let b := slice w 0 3
  let n6 := (slice w 0 6).toInt
  let n8 := slice w 0 8
  let e := slice w 8 1
  match (slice w 12 4).toNat with
  | 0x0 => decodeLogic p f hi a b
  | 0x1 => decodeCompare f hi a b
  | 0x2 => .ok (.addi (gregOf hi) (gregOf a) n6)
  | 0x3 => .ok (.ld (gregOf hi) (gregOf a) n6)
  | 0x4 => .ok (.st (gregOf hi) (gregOf a) n6)
  | 0x5 => if e = 0#1 then .ok (.movi (gregOf hi) n8.toInt) else .ok (.movhi (gregOf hi) n8)
  | 0x6 => if e = 0#1 then .ok (.bz (gregOf hi) n8.toInt) else .ok (.bnz (gregOf hi) n8.toInt)
  | 0x7 => if e = 0#1 then .ok (.inp (gregOf hi) n8.toFin) else .ok (.out (gregOf hi) n8.toFin)
  | 0x8 => decodeMulDiv f hi a b
  | 0x9 => decodeFloat f hi a b
  | 0xA => decodeJump p (slice w 0 6) hi a
  | 0xB => .ok (.ldf (fregOf hi) (gregOf a) n6)
  | 0xC => .ok (.stf (fregOf hi) (gregOf a) n6)
  | 0xD => .ok (.ldb (gregOf hi) (gregOf a) n6)
  | 0xE => .ok (.stb (gregOf hi) (gregOf a) n6)
  | _ => decodeSpecial p (slice w 0 6) hi a

/-- The decoder of the machine. -/
def decode (w : Word) : Except DecodeReject Instr := decodeWith Machine.fixedFieldPolicy w

/-- The 16-bit word of a low and a high byte: an instruction is stored little-endian (20_memory.md R61, R62). -/
def wordOfBytes (lo hi : Byte) : Word := hi ++ lo

/-- The low byte of a word, at its own address (20_memory.md R62). -/
def lowByte (w : Word) : Byte := w.extractLsb' 0 8

/-- The high byte of a word, at the next address (20_memory.md R62). -/
def highByte (w : Word) : Byte := w.extractLsb' 8 8

/-- The instruction at the head of a run of bytes and the bytes after it: every instruction is two bytes (30_encoding.md
R90). -/
def decodeBytes : List Byte → Except DecodeReject (Instr × List Byte)
  | lo :: hi :: rest =>
    match decode (wordOfBytes lo hi) with
    | .ok i => .ok (i, rest)
    | .error r => .error r
  | _ => .error .truncated

/-- The instruction the decoder reads from a table row's bits, laid out in memory as the hardware stores them. -/
def decodeTableWord (nbits w : Nat) : Option Instr :=
  let bits := w % 2 ^ nbits
  match decodeBytes [BitVec.ofNat 8 bits, BitVec.ofNat 8 (bits / 256)] with
  | .ok (i, _) => some i
  | .error _ => none

/-! ## The encoder -/

/-- The 3-bit field of a register number (30_encoding.md R95). -/
def field3 (n : Fin 8) : BitVec 3 := BitVec.ofFin n

/-- Format 3-Reg, `cccc ddd aaa fff bbb` (30_encoding.md R92). -/
def word3Reg (c : BitVec 4) (d a f b : BitVec 3) : Word := c ++ d ++ a ++ f ++ b

/-- Format 2-Reg, `cccc ddd aaa nnnnnn` (30_encoding.md R93). -/
def word2Reg (c : BitVec 4) (d a : BitVec 3) (n : BitVec 6) : Word := c ++ d ++ a ++ n

/-- Format 1-Reg, `cccc ddd e nnnnnnnn` (30_encoding.md R94). -/
def word1Reg (c : BitVec 4) (d : BitVec 3) (e : BitVec 1) (n : BitVec 8) : Word := c ++ d ++ e ++ n

/-- A 3-Reg word over three general registers. -/
def wordGGG (c : BitVec 4) (f : BitVec 3) (d a b : GReg) : Word :=
  word3Reg c (field3 d.num) (field3 a.num) f (field3 b.num)

/-- A 3-Reg word over three floating-point registers. -/
def wordFFF (f : BitVec 3) (d a b : FReg) : Word :=
  word3Reg 0b1001#4 (field3 d.num) (field3 a.num) f (field3 b.num)

/-- A 3-Reg word with a general destination and two floating-point sources. -/
def wordGFF (f : BitVec 3) (d : GReg) (a b : FReg) : Word :=
  word3Reg 0b1001#4 (field3 d.num) (field3 a.num) f (field3 b.num)

/-- A 2-Reg word whose six low bits are the two's complement integer `n`. -/
def wordDisp (c : BitVec 4) (d a : Fin 8) (n : Int) : Word :=
  word2Reg c (field3 d) (field3 a) (BitVec.ofInt 6 n)

/-- The word of an instruction (30_encoding.md R99 to R103), each constant from the encoding table. -/
def encode : Instr → Word
  | .and d a b => wordGGG 0b0000#4 0b000#3 d a b
  | .or d a b => wordGGG 0b0000#4 0b001#3 d a b
  | .xor d a b => wordGGG 0b0000#4 0b010#3 d a b
  | .not d a => word3Reg 0b0000#4 (field3 d.num) (field3 a.num) 0b011#3 0b000#3
  | .add d a b => wordGGG 0b0000#4 0b100#3 d a b
  | .sub d a b => wordGGG 0b0000#4 0b101#3 d a b
  | .sha d a b => wordGGG 0b0000#4 0b110#3 d a b
  | .shl d a b => wordGGG 0b0000#4 0b111#3 d a b
  | .cmplt d a b => wordGGG 0b0001#4 0b000#3 d a b
  | .cmple d a b => wordGGG 0b0001#4 0b001#3 d a b
  | .cmpeq d a b => wordGGG 0b0001#4 0b011#3 d a b
  | .cmpltu d a b => wordGGG 0b0001#4 0b100#3 d a b
  | .cmpleu d a b => wordGGG 0b0001#4 0b101#3 d a b
  | .addi d a n => wordDisp 0b0010#4 d.num a.num n
  | .ld d a n => wordDisp 0b0011#4 d.num a.num n
  | .st b a n => wordDisp 0b0100#4 b.num a.num n
  | .movi d n => word1Reg 0b0101#4 (field3 d.num) 0#1 (BitVec.ofInt 8 n)
  | .movhi d n => word1Reg 0b0101#4 (field3 d.num) 1#1 n
  | .bz b n => word1Reg 0b0110#4 (field3 b.num) 0#1 (BitVec.ofInt 8 n)
  | .bnz b n => word1Reg 0b0110#4 (field3 b.num) 1#1 (BitVec.ofInt 8 n)
  | .inp d p => word1Reg 0b0111#4 (field3 d.num) 0#1 (BitVec.ofFin p)
  | .out b p => word1Reg 0b0111#4 (field3 b.num) 1#1 (BitVec.ofFin p)
  | .mul d a b => wordGGG 0b1000#4 0b000#3 d a b
  | .mulh d a b => wordGGG 0b1000#4 0b001#3 d a b
  | .mulhu d a b => wordGGG 0b1000#4 0b010#3 d a b
  | .div d a b => wordGGG 0b1000#4 0b100#3 d a b
  | .divu d a b => wordGGG 0b1000#4 0b101#3 d a b
  | .addf d a b => wordFFF 0b000#3 d a b
  | .subf d a b => wordFFF 0b001#3 d a b
  | .mulf d a b => wordFFF 0b010#3 d a b
  | .divf d a b => wordFFF 0b011#3 d a b
  | .cmpltf d a b => wordGFF 0b100#3 d a b
  | .cmplef d a b => wordGFF 0b101#3 d a b
  | .cmpeqf d a b => wordGFF 0b111#3 d a b
  | .jz b a => word2Reg 0b1010#4 (field3 b.num) (field3 a.num) 0b000000#6
  | .jnz b a => word2Reg 0b1010#4 (field3 b.num) (field3 a.num) 0b000001#6
  | .jmp a => word2Reg 0b1010#4 0b000#3 (field3 a.num) 0b000011#6
  | .jal d a => word2Reg 0b1010#4 (field3 d.num) (field3 a.num) 0b000100#6
  | .ldf d a n => wordDisp 0b1011#4 d.num a.num n
  | .stf b a n => wordDisp 0b1100#4 b.num a.num n
  | .ldb d a n => wordDisp 0b1101#4 d.num a.num n
  | .stb b a n => wordDisp 0b1110#4 b.num a.num n
  | .ei => 0b1111000000100000#16
  | .di => 0b1111000000100001#16
  | .reti => 0b1111000000100100#16
  | .getiid d => word2Reg 0b1111#4 (field3 d.num) 0b000#3 0b101000#6
  | .rds d a => word2Reg 0b1111#4 (field3 d.num) (field3 a.num) 0b101100#6
  | .wrs d a => word2Reg 0b1111#4 (field3 d.num) (field3 a.num) 0b110000#6
  | .halt => 0b1111111111111111#16

/-! ## The opcode table as data -/

/-- One row of spec/opcode_table.json: the bits a word must have (`pattern`) where `mask` is 1. -/
structure OpcodeRow where
  mask    : Word
  pattern : Word
deriving DecidableEq, Repr

/-- The row of an instruction, with the fixed fields in the mask (30_encoding.md R108). -/
def rowOf : Instr → OpcodeRow
  | .and _ _ _ => ⟨0xF038#16, 0x0000#16⟩
  | .or _ _ _ => ⟨0xF038#16, 0x0008#16⟩
  | .xor _ _ _ => ⟨0xF038#16, 0x0010#16⟩
  | .not _ _ => ⟨0xF03F#16, 0x0018#16⟩
  | .add _ _ _ => ⟨0xF038#16, 0x0020#16⟩
  | .sub _ _ _ => ⟨0xF038#16, 0x0028#16⟩
  | .sha _ _ _ => ⟨0xF038#16, 0x0030#16⟩
  | .shl _ _ _ => ⟨0xF038#16, 0x0038#16⟩
  | .cmplt _ _ _ => ⟨0xF038#16, 0x1000#16⟩
  | .cmple _ _ _ => ⟨0xF038#16, 0x1008#16⟩
  | .cmpeq _ _ _ => ⟨0xF038#16, 0x1018#16⟩
  | .cmpltu _ _ _ => ⟨0xF038#16, 0x1020#16⟩
  | .cmpleu _ _ _ => ⟨0xF038#16, 0x1028#16⟩
  | .addi _ _ _ => ⟨0xF000#16, 0x2000#16⟩
  | .ld _ _ _ => ⟨0xF000#16, 0x3000#16⟩
  | .st _ _ _ => ⟨0xF000#16, 0x4000#16⟩
  | .movi _ _ => ⟨0xF100#16, 0x5000#16⟩
  | .movhi _ _ => ⟨0xF100#16, 0x5100#16⟩
  | .bz _ _ => ⟨0xF100#16, 0x6000#16⟩
  | .bnz _ _ => ⟨0xF100#16, 0x6100#16⟩
  | .inp _ _ => ⟨0xF100#16, 0x7000#16⟩
  | .out _ _ => ⟨0xF100#16, 0x7100#16⟩
  | .mul _ _ _ => ⟨0xF038#16, 0x8000#16⟩
  | .mulh _ _ _ => ⟨0xF038#16, 0x8008#16⟩
  | .mulhu _ _ _ => ⟨0xF038#16, 0x8010#16⟩
  | .div _ _ _ => ⟨0xF038#16, 0x8020#16⟩
  | .divu _ _ _ => ⟨0xF038#16, 0x8028#16⟩
  | .addf _ _ _ => ⟨0xF038#16, 0x9000#16⟩
  | .subf _ _ _ => ⟨0xF038#16, 0x9008#16⟩
  | .mulf _ _ _ => ⟨0xF038#16, 0x9010#16⟩
  | .divf _ _ _ => ⟨0xF038#16, 0x9018#16⟩
  | .cmpltf _ _ _ => ⟨0xF038#16, 0x9020#16⟩
  | .cmplef _ _ _ => ⟨0xF038#16, 0x9028#16⟩
  | .cmpeqf _ _ _ => ⟨0xF038#16, 0x9038#16⟩
  | .jz _ _ => ⟨0xF03F#16, 0xA000#16⟩
  | .jnz _ _ => ⟨0xF03F#16, 0xA001#16⟩
  | .jmp _ => ⟨0xFE3F#16, 0xA003#16⟩
  | .jal _ _ => ⟨0xF03F#16, 0xA004#16⟩
  | .ldf _ _ _ => ⟨0xF000#16, 0xB000#16⟩
  | .stf _ _ _ => ⟨0xF000#16, 0xC000#16⟩
  | .ldb _ _ _ => ⟨0xF000#16, 0xD000#16⟩
  | .stb _ _ _ => ⟨0xF000#16, 0xE000#16⟩
  | .ei => ⟨0xFFFF#16, 0xF020#16⟩
  | .di => ⟨0xFFFF#16, 0xF021#16⟩
  | .reti => ⟨0xFFFF#16, 0xF024#16⟩
  | .getiid _ => ⟨0xF1FF#16, 0xF028#16⟩
  | .rds _ _ => ⟨0xF03F#16, 0xF02C#16⟩
  | .wrs _ _ => ⟨0xF03F#16, 0xF030#16⟩
  | .halt => ⟨0xFFFF#16, 0xFFFF#16⟩

end Sys2Proof
end

