-- ==== Sys2Proof/Machine/Flags.lean ====
section
/-! DEFINITION. SISA-F has no condition flags (10_state.md R28). What stands here are the three named bits of a status word,
as S7 and S0 hold it (10_state.md R38), and the 16-bit boolean a comparison writes instead of a flag. -/

namespace Sys2Proof.Machine

/-- Bit M of a status word, reserved, without effect (10_state.md R39). -/
def statusM (psw : Word) : Bool := psw.getLsbD 0

/-- Bit I of a status word: interrupts are permitted (10_state.md R40). -/
def statusI (psw : Word) : Bool := psw.getLsbD 1

/-- Bit V of a status word: the floating-point overflow exception is permitted (10_state.md R41). -/
def statusV (psw : Word) : Bool := psw.getLsbD 2

/-- The status word with I = 1, the other 15 bits unchanged (47_io_and_special.md R244). -/
def permitInterrupts (psw : Word) : Word := psw ||| 0x0002#16

/-- The status word with I = 0, the other 15 bits unchanged (47_io_and_special.md R245, 60_exceptions.md R285 step 6). -/
def inhibitInterrupts (psw : Word) : Word := psw &&& 0xFFFD#16

/-- The boolean a comparison writes: 0x0001 or 0x0000 (43_compare.md R185). -/
def boolWord (b : Bool) : Word := if b then 0x0001#16 else 0x0000#16

end Sys2Proof.Machine
end

