-- ==== Sys2Proof/Machine/Operands.lean ====
section
/-! DEFINITION. Operand forms: extension, effective addresses, branch targets and shift amounts (30_encoding.md R97, R98;
44_memory_access.md R196, R197; 45_control_transfer.md R218; 40_arith_logic.md R129). -/

namespace Sys2Proof.Machine

/-- `sext_16(N)` for the field N whose two's complement reading is `n`: the 16-bit vector of the same signed value
(00_scope.md R12). -/
def sext16 (n : Int) : Word := BitVec.ofInt 16 n

/-- `sext_16` of a byte (44_memory_access.md R198). -/
def sextByte (b : Byte) : Word := b.signExtend 16

/-- `zext_16` of a 4-bit event code (00_scope.md R12, 10_state.md R33). -/
def zextCode (c : BitVec 4) : Word := c.zeroExtend 16

/-- The displacement of scale 2: `sext_16(N) << 1` kept to 16 bits (30_encoding.md R97). -/
def scaled (n : Int) : Word := sext16 n <<< 1

/-- Effective address of LDB and STB, modulo 2^16 (44_memory_access.md R196). -/
def byteAddr (base : Word) (n : Int) : Word := base + sext16 n

/-- Effective address of LD, ST, LDF and STF, modulo 2^16 (44_memory_access.md R197). -/
def wordAddr (base : Word) (n : Int) : Word := base + scaled n

/-- The target of BZ and BNZ, modulo 2^16 (45_control_transfer.md R218). -/
def branchTarget (pcup : Word) (n : Int) : Word := pcup + scaled n

/-- The address is odd: a 16-bit access there is misaligned (20_memory.md R67). -/
def isOdd (a : Word) : Bool := a.getLsbD 0

/-- The shift amount of SHA and SHL: the five low bits of Rb in two's complement, -16 to 15 (40_arith_logic.md R129). -/
def shiftAmount (b : Word) : Int := (b.extractLsb' 0 5).toInt

end Sys2Proof.Machine
end

