-- ==== Sys2Proof/Machine/Memory.lean ====
section
/-! DEFINITION. Memory as plain data: a list of (address, byte) pairs, the bytes that have been written, in one canonical
form (20_memory.md R60, R63, R65). -/

namespace Sys2Proof.Machine

/-- The bytes that the program's loading or a store has written (10_state.md R44). -/
abbrev Memory := List Host.Cell

/-- What an address reads as in the list. This is the ONE definition of what an unlisted address reads as: no value
(log entry 5; the machine's read of such a byte, State.readByte, gives the free value of its address). -/
def Memory.read : Memory → Nat → Option Byte
  | [], _ => none
  | (b, v) :: m, a => if a = b then some v else Memory.read m a

/-- Replaces the byte at one address and no other (20_memory.md R65), keeping the canonical form. -/
def Memory.write : Memory → Nat → Byte → Memory
  | [], a, v => [(a, v)]
  | (b, w) :: m, a, v =>
    if a < b then (a, v) :: (b, w) :: m
    else if a = b then (a, v) :: m
    else (b, w) :: Memory.write m a v

/-- The canonical form above a lower bound: addresses strictly rising, each at least `lo` and in the 2^16 bytes there are. -/
def Memory.wfFrom : Nat → Memory → Bool
  | _, [] => true
  | lo, (a, _) :: m => decide (lo ≤ a) && decide (a < 65536) && Memory.wfFrom (a + 1) m

/-- The canonical form: addresses strictly rising, each one of the 2^16 there are (20_memory.md R60). An entry is always a
value and an unlisted address reads as no value, so no entry equals what an unlisted address reads as. -/
def Memory.wf (m : Memory) : Bool := Memory.wfFrom 0 m

end Sys2Proof.Machine
end

