-- ==== Sys2Proof/Machine/State.lean ====
section
/-! DEFINITION. The state of the machine as plain data (10_state.md R20), the reasons a step can stop, and the state after
reset (10_state.md R50; 70_reset_and_hazards.md R311). -/

namespace Sys2Proof.Machine

/-- Why the machine stops. -/
inductive Fault where
  /-- Raised by a step of a machine that HALT has stopped: no instruction is fetched, nothing changes and no interrupt is
  taken (47_io_and_special.md R262, 93_implementation_defined.md I1 `stuck`). Safe: no claim about what follows a HALT. -/
  | halted
deriving DecidableEq, Repr

/-- Why a step has no meaning. -/
inductive Refusal where
  /-- Raised by an arm of exec whose instruction has no meaning yet. Safe. -/
  | notModelled (mnemonic : String)
  /-- Raised by a fetch, load or store that touches an address `MEM_MAP` declares absent (20_memory.md R72,
  93_implementation_defined.md U8 `refuse`). Safe. With the default map no address is absent. -/
  | absentMemory
  /-- Raised by a store to an address `MEM_MAP` declares ROM; the spec does not say what such a store does (20_memory.md
  R72). Safe. With the default map no address is ROM. -/
  | romWrite
  /-- Raised by a step of a halted machine when `HALT_BEHAVIOUR` is platform-defined (93_implementation_defined.md U11
  `refuse`). Safe. -/
  | haltPlatformDefined
deriving DecidableEq, Repr

/-- One event of the history of a run (20_memory.md R81). -/
inductive IoEvent where
  /-- an IN read, with the value returned -/
  | inRead (p : Port) (v : Word)
  /-- an OUT write -/
  | outWrite (p : Port) (v : Word)
  /-- a GETIID acknowledge, the signal INTA -/
  | inta
deriving DecidableEq, Repr

/-- The state of the machine. -/
structure State where
  /-- the program counter (10_state.md R22) -/
  pc : Word
  /-- the general registers R0 to R7 (10_state.md R21) -/
  gpr : Vector Word 8
  /-- the floating-point registers F0 to F7 (10_state.md R29) -/
  fpr : Vector Word 8
  /-- the special registers S0 to S7 (10_state.md R30 to R38); S7 is the PSW -/
  spr : Vector Word 8
  /-- the memory bytes that have been written (10_state.md R44) -/
  mem : Memory
  /-- the 256 output registers (10_state.md R45) -/
  outPorts : Vector Word 256
  /-- the halted condition (10_state.md R49) -/
  halted : Bool
  /-- the request line, the bus identifier and the 256 input registers, as the environment presents them during the
  coming step (10_state.md R45, R47, R48) -/
  env : EnvInputs
  /-- the event history, in program order (20_memory.md R81) -/
  history : List IoEvent
  /-- MODEL'S OWN, log entry 4: what the environment presents at the steps after the coming one, as far as it is fixed
  beforehand; where the list ends the environment is free -/
  script : List EnvInputs
  /-- MODEL'S OWN, log entry 11: how many steps have been taken, the argument of the free values -/
  tick : Nat
deriving DecidableEq, Repr

/-- The special registers after reset: S7 is `RESET_PSW`; the others have no stated value (10_state.md R50), and S2[15:4] are
0 as always (R33). -/
def State.resetSpr : Vector Word 8 :=
  #v[resetWord, resetWord, resetWord &&& 0x000F#16, resetWord, resetWord, resetWord, resetWord, resetPsw]

/-- The machine after reset (70_reset_and_hazards.md R311): pc, S7 and the halted condition as the spec states them, memory
with nothing loaded, every register without a stated value at `resetWord` (log entry 6), the environment free. -/
def State.reset : State where
  pc := resetPc
  gpr := Vector.replicate 8 resetWord
  fpr := Vector.replicate 8 resetWord
  spr := State.resetSpr
  mem := []
  outPorts := Vector.replicate 256 resetWord
  halted := false
  env := Config.environment 0
  history := []
  script := []
  tick := 0

end Sys2Proof.Machine
end

