-- ==== Sys2Proof/Machine/Ops.lean ====
section
/-! DEFINITION. The named operations the meanings are written in: register files, memory, ports and events, taking an
exception and returning from one. A meaning runs with `pc` already advanced to `pcup` (00_scope.md R16). -/

namespace Sys2Proof.Machine

/-- What a step or a meaning answers. -/
abbrev Result := Host.Outcome State Fault Refusal

/-- Goes on with the next state, and keeps a fault or a refusal. -/
def onNext (r : Result) (f : State → State) : Result :=
  match r with
  | .next s => .next (f s)
  | .fault e => .fault e
  | .refused e => .refused e

/-! ## Registers -/

/-- `R[i]` (00_scope.md R13). -/
def State.R (s : State) (r : GReg) : Word := s.gpr[r.num]

/-- `R[i] <- v`; no general register is special (10_state.md R27). -/
def State.setR (s : State) (r : GReg) (v : Word) : State := { s with gpr := s.gpr.set r.num v }

/-- `F[i]` (00_scope.md R13). -/
def State.F (s : State) (r : FReg) : Word := s.fpr[r.num]

/-- `F[i] <- v`, the 16 bits unchanged (10_state.md R29). -/
def State.setF (s : State) (r : FReg) (v : Word) : State := { s with fpr := s.fpr.set r.num v }

/-- `S[i]` (00_scope.md R13). -/
def State.S (s : State) (x : SReg) : Word := s.spr[x.num]

/-- What special register `x` stores of a value written to it: S2[15:4] stay 0, the others are plain storage (10_state.md
R33, R37, R39, R42). Log entry 12. -/
def sregStored (x : SReg) (v : Word) : Word := if x.num = 2 then v &&& 0x000F#16 else v

/-- `S[i] <- v` (47_io_and_special.md R249). -/
def State.setS (s : State) (x : SReg) (v : Word) : State := { s with spr := s.spr.set x.num (sregStored x v) }

/-- S0, the status word saved at entry (10_state.md R31). -/
def S0 : SReg := ⟨0⟩
/-- S1, the return address (10_state.md R32). -/
def S1 : SReg := ⟨1⟩
/-- S2, the event code (10_state.md R33). -/
def S2 : SReg := ⟨2⟩
/-- S3, the misaligned address (10_state.md R34). -/
def S3 : SReg := ⟨3⟩
/-- S5, the entry of the handler (10_state.md R36). -/
def S5 : SReg := ⟨5⟩
/-- S7, the PSW (10_state.md R38). -/
def S7 : SReg := ⟨7⟩

/-- `pc <- target` (00_scope.md R13). -/
def State.setPc (s : State) (target : Word) : State := { s with pc := target }

/-! ## Memory -/

/-- The content of one memory byte; a byte that nothing has written holds the free value of its address (20_memory.md R63,
10_state.md R51). Log entry 5. -/
def State.readByte (s : State) (a : Word) : Byte := (s.mem.read a.toNat).getD (Config.initialByte a.toNat)

/-- `MemRead(a, 2)`, little-endian (20_memory.md R64). -/
def State.readWord (s : State) (a : Word) : Word := wordOfBytes (s.readByte a) (s.readByte (a + 1))

/-- `MemWrite(a, 1, v)` (20_memory.md R65). -/
def State.writeByte (s : State) (a : Word) (v : Byte) : State := { s with mem := s.mem.write a.toNat v }

/-- `MemWrite(a, 2, v)` (20_memory.md R66). -/
def State.writeWord (s : State) (a : Word) (v : Word) : State :=
  (s.writeByte a (lowByte v)).writeByte (a + 1) (highByte v)

/-- The bytes of the 16-bit item at an address (20_memory.md R62). -/
def itemBytes (a : Word) : List Word := [a, a + 1]

/-- A read of these bytes: refused where `MEM_MAP` says nothing is there (20_memory.md R72). -/
def onRead (bytes : List Word) (r : Result) : Result :=
  if bytes.any (fun a => memMap a == .absent) then .refused .absentMemory else r

/-- A write of these bytes: refused where `MEM_MAP` says nothing, or ROM, is there (20_memory.md R72). -/
def onWrite (bytes : List Word) (r : Result) : Result :=
  if bytes.any (fun a => memMap a == .absent) then .refused .absentMemory
  else if bytes.any (fun a => memMap a == .rom) then .refused .romWrite
  else r

/-! ## Ports and events -/

/-- The output register of a port (10_state.md R45). -/
def State.outPort (s : State) (p : Port) : Word := s.outPorts[p]

/-- `Out(p) <- v` (47_io_and_special.md R242). -/
def State.setOutPort (s : State) (p : Port) (v : Word) : State := { s with outPorts := s.outPorts.set p v }

/-- What an IN of a port returns: the last value OUT wrote if IN and OUT reach one physical register (`shared`) and the platform
says that it is a plain register (`plain`), in every other case what the environment presents (10_state.md R47). -/
def inValue (shared plain : Bool) (written presented : Word) : Word := if shared && plain then written else presented

/-- `In(p)` (47_io_and_special.md R241), under the two parameters of the port (10_state.md R47). Log entry 8. -/
def State.inPort (s : State) (p : Port) : Word :=
  inValue (ioShared p) (portIsPlainRegister p) (s.outPort p) s.env.inPorts[p]

/-- The event is added at the end of the history (20_memory.md R81). -/
def State.record (s : State) (e : IoEvent) : State := { s with history := s.history ++ [e] }

/-! ## Exceptions and interrupts -/

/-- What diverts execution to the handler (60_exceptions.md R271). -/
inductive TrapCause where
  | illegalInstruction
  | misaligned (addr : Word)
  | floatOverflow
  | floatDivZero
  | intDivZero
  | interrupt
deriving DecidableEq, Repr

/-- The event code written to S2[3:0] (60_exceptions.md R271). -/
def TrapCause.code : TrapCause → BitVec 4
  | .illegalInstruction => 0
  | .misaligned _ => 1
  | .floatOverflow => 2
  | .floatDivZero => 3
  | .intDivZero => 4
  | .interrupt => 15

/-- Step 4 of the entry: S3 receives the address of a misaligned access and is unchanged by any other event. -/
def State.saveAddress (s : State) : TrapCause → State
  | .misaligned addr => s.setS S3 addr
  | .illegalInstruction | .floatOverflow | .floatDivZero | .intDivZero | .interrupt => s

/-- The trap entry, its seven steps as one action (60_exceptions.md R285). -/
def trapEntry (c : TrapCause) (ret : Word) (s : State) : State :=
  let s1 := ((s.setS S0 (s.S S7)).setS S1 ret).setS S2 (zextCode c.code)
  let s2 := s1.saveAddress c
  (s2.setPc (s2.S S5)).setS S7 (inhibitInterrupts (s2.S S7))

/-- `raise`: the instruction is abandoned and the entry performed, with `pcup` as the return address (60_exceptions.md
R286). -/
def raise (c : TrapCause) (s : State) : Result := .next (trapEntry c s.pc s)

/-- The return from an exception or interrupt (60_exceptions.md R292). -/
def returnFromTrap (s : State) : State := (s.setS S7 (s.S S0)).setPc (s.S S1)

/-! ## The shapes several meanings share -/

/-- A 3-Reg operation on general registers: the sources are read before the destination is written (40_arith_logic.md
R120). -/
def regOp (f : Word → Word → Word) (d a b : GReg) (s : State) : Result := .next (s.setR d (f (s.R a) (s.R b)))

/-- A comparison of general registers (43_compare.md R185). -/
def compareOp (f : Word → Word → Bool) (d a b : GReg) (s : State) : Result := regOp (fun x y => boolWord (f x y)) d a b s

/-- A floating-point comparison: float sources, general destination (41_float.md R164). -/
def compareFloatOp (f : Word → Word → Bool) (d : GReg) (a b : FReg) (s : State) : Result :=
  .next (s.setR d (boolWord (f (s.F a) (s.F b))))

/-- What every floating-point operation does with its outcome (41_float.md R157). -/
def finishFloat (d : FReg) (o : FloatOutcome) (s : State) : Result :=
  match o with
  | .value v => .next (s.setF d v)
  | .divZero => raise .floatDivZero s
  | .overflow =>
    if statusV (s.S S7) then raise .floatOverflow s else .next (s.setF d (Config.floatOverflowValue s.tick))

/-- A 16-bit load: misaligned, no memory is read (44_memory_access.md R204); else the item goes where `put` says. -/
def loadItem (ea : Word) (put : State → Word → State) (s : State) : Result :=
  if isOdd ea then raise (.misaligned ea) s else onRead (itemBytes ea) (.next (put s (s.readWord ea)))

/-- A 16-bit store: misaligned, no memory is written (44_memory_access.md R204). -/
def storeItem (ea v : Word) (s : State) : Result :=
  if isOdd ea then raise (.misaligned ea) s else onWrite (itemBytes ea) (.next (s.writeWord ea v))

/-- A conditional control transfer: not taken, `pc` stays `pcup` (45_control_transfer.md R216, R221). -/
def jumpIf (taken : Bool) (target : Word) (s : State) : Result := .next (if taken then s.setPc target else s)

end Sys2Proof.Machine
end

