-- ==== Sys2Proof/Machine/ArithLogic.lean ====
section
/-! DEFINITION. Operation code 0000: AND, OR, XOR, NOT, ADD, SUB, SHA, SHL (40_arith_logic.md R120 to R129). -/

namespace Sys2Proof.Machine

/-- The arithmetic shift: left with zeros, right with the sign bit, `floor(signed / 2^(-n))` (40_arith_logic.md R127). -/
def arithShift (x : Word) (n : Int) : Word :=
  if 0 ≤ n then x <<< n.toNat else BitVec.ofInt 16 (Int.fdiv x.toInt (2 ^ (-n).toNat))

/-- The logical shift: zeros on both sides, `floor(unsigned / 2^(-n))` (40_arith_logic.md R128). -/
def logicShift (x : Word) (n : Int) : Word :=
  if 0 ≤ n then x <<< n.toNat else BitVec.ofNat 16 (x.toNat / 2 ^ (-n).toNat)

/-- AND Rd, Ra, Rb (40_arith_logic.md R121). -/
def execAnd (d a b : GReg) (s : State) : Result := regOp (fun x y => x &&& y) d a b s

/-- OR Rd, Ra, Rb (40_arith_logic.md R122). -/
def execOr (d a b : GReg) (s : State) : Result := regOp (fun x y => x ||| y) d a b s

/-- XOR Rd, Ra, Rb (40_arith_logic.md R123). -/
def execXor (d a b : GReg) (s : State) : Result := regOp (fun x y => x ^^^ y) d a b s

/-- NOT Rd, Ra: one source, Rb is not read (40_arith_logic.md R124). -/
def execNot (d a : GReg) (s : State) : Result := .next (s.setR d (~~~ s.R a))

/-- ADD Rd, Ra, Rb, modulo 2^16 (40_arith_logic.md R125). -/
def execAdd (d a b : GReg) (s : State) : Result := regOp (fun x y => x + y) d a b s

/-- SUB Rd, Ra, Rb, modulo 2^16, minuend Ra (40_arith_logic.md R126). -/
def execSub (d a b : GReg) (s : State) : Result := regOp (fun x y => x - y) d a b s

/-- SHA Rd, Ra, Rb (40_arith_logic.md R127). -/
def execSha (d a b : GReg) (s : State) : Result := regOp (fun x y => arithShift x (shiftAmount y)) d a b s

/-- SHL Rd, Ra, Rb (40_arith_logic.md R128). -/
def execShl (d a b : GReg) (s : State) : Result := regOp (fun x y => logicShift x (shiftAmount y)) d a b s

end Sys2Proof.Machine
end

