-- ==== Sys2Proof/Machine/Compare.lean ====
section
/-! DEFINITION. Operation code 0001: CMPLT, CMPLE, CMPEQ, CMPLTU, CMPLEU, on the mathematical values (43_compare.md R185 to
R191). -/

namespace Sys2Proof.Machine

/-- CMPLT Rd, Ra, Rb: integers (43_compare.md R186). -/
def execCmplt (d a b : GReg) (s : State) : Result := compareOp (fun x y => decide (x.toInt < y.toInt)) d a b s

/-- CMPLE Rd, Ra, Rb: integers (43_compare.md R187). -/
def execCmple (d a b : GReg) (s : State) : Result := compareOp (fun x y => decide (x.toInt ≤ y.toInt)) d a b s

/-- CMPEQ Rd, Ra, Rb: all 16 bits equal (43_compare.md R188). -/
def execCmpeq (d a b : GReg) (s : State) : Result := compareOp (fun x y => decide (x = y)) d a b s

/-- CMPLTU Rd, Ra, Rb: naturals (43_compare.md R189). -/
def execCmpltu (d a b : GReg) (s : State) : Result := compareOp (fun x y => decide (x.toNat < y.toNat)) d a b s

/-- CMPLEU Rd, Ra, Rb: naturals (43_compare.md R190). -/
def execCmpleu (d a b : GReg) (s : State) : Result := compareOp (fun x y => decide (x.toNat ≤ y.toNat)) d a b s

end Sys2Proof.Machine
end

