-- ==== Sys2Proof/Machine/FloatArith.lean ====
section
/-! DEFINITION. SISA-FLOAT16 (41_float.md R150 to R154): the fields and the real value of a float, the reference instance of
`FLOAT_ARITH` (R161 to R163), and the order the comparisons use (R168). -/

namespace Sys2Proof.Machine

/-- The sign field, bit 15 (41_float.md R150). -/
def fSign (x : Word) : Bool := x.getLsbD 15

/-- The exponent field k, bits 14 to 9, in excess 31 (41_float.md R150). -/
def fExp (x : Word) : Nat := (x.extractLsb' 9 6).toNat

/-- The mantissa field f, bits 8 to 0 (41_float.md R150). -/
def fMant (x : Word) : Nat := (x.extractLsb' 0 9).toNat

/-- The significand with the hidden bit, 512 to 1023 (41_float.md R151). -/
def fSig (x : Word) : Nat := 512 + fMant x

/-- One of the two zeros: exponent and mantissa all 0 (41_float.md R152). -/
def fIsZero (x : Word) : Bool := x.extractLsb' 0 15 == 0#15

/-- `fval(X)`, the real number X denotes (41_float.md R151, R152). -/
def fval (x : Word) : ℚ :=
  if fIsZero x then 0
  else (if fSign x then -1 else 1) * (2 : ℚ) ^ ((fExp x : ℤ) - 31) * (1 + (fMant x : ℚ) / 2 ^ 9)

/-- `s ++ E[5:0] ++ f[8:0]` (41_float.md R161). -/
def fPack (s : Bool) (e : Int) (f : Nat) : Word := BitVec.ofBool s ++ BitVec.ofInt 6 e ++ BitVec.ofNat 9 f

/-- The zero of a sign (41_float.md R152). -/
def fZero (s : Bool) : Word := fPack s 0 0

/-- The end of every operation: overflow above the largest exponent, a zero of the sign below the smallest, else the fields
(41_float.md R161 to R163). `m` is the 10-bit significand, 512 to 1023. -/
def fRange (s : Bool) (e : Int) (m : Nat) : FloatOutcome :=
  if e > 63 then .overflow
  else if e < 0 then .value (fZero s)
  else .value (fPack s e (m - 512))

/-- "leading zeros: steps left" (41_float.md R161), at most `fuel` steps; an 11-bit sum that is not 0 needs at most 10. -/
def fNormLeft : Nat → Nat → Int → Nat × Int
  | 0, sum, e => (sum, e)
  | fuel + 1, sum, e => if sum < 1024 then fNormLeft fuel (sum * 2) (e - 1) else (sum, e)

/-- Normalisation of a sum of 11-bit significands to its first significant bit (41_float.md R161). -/
def fNormalize (sum : Nat) (e : Int) : Nat × Int :=
  if sum ≥ 2048 then (sum / 2, e + 1) else fNormLeft 10 sum e

/-- The sum of two non-zero floats: align to the larger exponent with one guard bit, add or subtract, normalise, truncate
(41_float.md R161). -/
def fAddAligned (x y : Word) : FloatOutcome :=
  let e := max (fExp x) (fExp y)
  let mx := fSig x * 2 / 2 ^ (e - fExp x)
  let my := fSig y * 2 / 2 ^ (e - fExp y)
  let sum := if fSign x = fSign y then mx + my else if mx ≥ my then mx - my else my - mx
  let s := if fSign x = fSign y then fSign x else if mx ≥ my then fSign x else fSign y
  if sum = 0 then .value 0x0000#16
  else fRange s (fNormalize sum e).2 ((fNormalize sum e).1 / 2)

/-- `fadd` of the reference instance (41_float.md R161). -/
def refAdd (x y : Word) : FloatOutcome :=
  if fIsZero x && fIsZero y then .value (fZero (fSign x && fSign y))
  else if fIsZero x then .value y
  else if fIsZero y then .value x
  else fAddAligned x y

/-- `fsub(A, B) = fadd(A, B xor 0x8000)` (41_float.md R160). -/
def refSub (x y : Word) : FloatOutcome := refAdd x (y ^^^ 0x8000#16)

/-- `fmul` of the reference instance (41_float.md R162). -/
def refMul (x y : Word) : FloatOutcome :=
  let s := fSign x != fSign y
  let p := fSig x * fSig y
  let e : Int := (fExp x : Int) + (fExp y : Int) - 31
  if fIsZero x || fIsZero y then .value (fZero s)
  else if p ≥ 2 ^ 19 then fRange s (e + 1) (p / 2 ^ 10)
  else fRange s e (p / 2 ^ 9)

/-- `fdiv` of the reference instance (41_float.md R163). -/
def refDiv (x y : Word) : FloatOutcome :=
  let s := fSign x != fSign y
  let e : Int := (fExp x : Int) - (fExp y : Int) + 31
  if fIsZero y then .divZero
  else if fIsZero x then .value (fZero s)
  else if fSig x ≥ fSig y then fRange s e (fSig x * 2 ^ 9 / fSig y)
  else fRange s (e - 1) (fSig x * 2 ^ 10 / fSig y)

/-- `FLOAT_ARITH`, default the reference instance (41_float.md R158, decisions D4 to D6). Log entry 13. -/
def floatArith : FloatArith where
  fadd := refAdd
  fsub := refSub
  fmul := refMul
  fdiv := refDiv

/-- The integer that orders floats as their values do (41_float.md R168). -/
def fKey (x : Word) : Int :=
  if fIsZero x then 0
  else if fSign x then -((x.extractLsb' 0 15).toNat : Int)
  else ((x.extractLsb' 0 15).toNat : Int)

/-- `fval(A) < fval(B)` (41_float.md R168). -/
def fLess (x y : Word) : Bool := decide (fKey x < fKey y)

/-- `fval(A) <= fval(B)` (41_float.md R168). -/
def fLessEq (x y : Word) : Bool := decide (fKey x ≤ fKey y)

/-- `fval(A) == fval(B)` (41_float.md R168). -/
def fEqual (x y : Word) : Bool := decide (fKey x = fKey y)

end Sys2Proof.Machine
end

