-- ==== Sys2Proof/Machine/FloatOps.lean ====
section
/-! DEFINITION. Operation code 1001: ADDF, SUBF, MULF, DIVF, CMPLTF, CMPLEF, CMPEQF (41_float.md R156 to R168). -/

namespace Sys2Proof.Machine

/-- ADDF Fd, Fa, Fb (41_float.md R159). -/
def execAddf (d a b : FReg) (s : State) : Result := finishFloat d (floatArith.fadd (s.F a) (s.F b)) s

/-- SUBF Fd, Fa, Fb, minuend Fa (41_float.md R160). -/
def execSubf (d a b : FReg) (s : State) : Result := finishFloat d (floatArith.fsub (s.F a) (s.F b)) s

/-- MULF Fd, Fa, Fb (41_float.md R162). -/
def execMulf (d a b : FReg) (s : State) : Result := finishFloat d (floatArith.fmul (s.F a) (s.F b)) s

/-- DIVF Fd, Fa, Fb, dividend Fa (41_float.md R163). -/
def execDivf (d a b : FReg) (s : State) : Result := finishFloat d (floatArith.fdiv (s.F a) (s.F b)) s

/-- CMPLTF Rd, Fa, Fb (41_float.md R165). -/
def execCmpltf (d : GReg) (a b : FReg) (s : State) : Result := compareFloatOp fLess d a b s

/-- CMPLEF Rd, Fa, Fb (41_float.md R166). -/
def execCmplef (d : GReg) (a b : FReg) (s : State) : Result := compareFloatOp fLessEq d a b s

/-- CMPEQF Rd, Fa, Fb (41_float.md R167). -/
def execCmpeqf (d : GReg) (a b : FReg) (s : State) : Result := compareFloatOp fEqual d a b s

end Sys2Proof.Machine
end

