-- ==== Sys2Proof/Machine/Immediate.lean ====
section
/-! DEFINITION. Operation codes 0010 and 0101: ADDI, MOVI, MOVHI (42_addi.md R180; 46_move_immediate.md R235 to R237). -/

namespace Sys2Proof.Machine

/-- ADDI Rd, Ra, Ns, modulo 2^16 (42_addi.md R180). -/
def execAddi (d a : GReg) (n : Int) (s : State) : Result := .next (s.setR d (s.R a + sext16 n))

/-- MOVI Rd, Ns (46_move_immediate.md R236). -/
def execMovi (d : GReg) (n : Int) (s : State) : Result := .next (s.setR d (sext16 n))

/-- MOVHI Rd, Ns: the low byte of Rd is kept (46_move_immediate.md R237). -/
def execMovhi (d : GReg) (n : BitVec 8) (s : State) : Result := .next (s.setR d (wordOfBytes (lowByte (s.R d)) n))

end Sys2Proof.Machine
end

