-- ==== Sys2Proof/Machine/InputOutput.lean ====
section
/-! DEFINITION. Operation code 0111: IN and OUT (47_io_and_special.md R240 to R242). -/

namespace Sys2Proof.Machine

/-- IN Rd, Nu, with its event (47_io_and_special.md R241). -/
def execIn (d : GReg) (p : Port) (s : State) : Result := .next ((s.setR d (s.inPort p)).record (.inRead p (s.inPort p)))

/-- OUT Nu, Rb, with its event (47_io_and_special.md R242). -/
def execOut (b : GReg) (p : Port) (s : State) : Result := .next ((s.setOutPort p (s.R b)).record (.outWrite p (s.R b)))

end Sys2Proof.Machine
end

