-- ==== Sys2Proof/Machine/MemAccess.lean ====
section
/-! DEFINITION. Operation codes 0011, 0100 and 1011 to 1110: LD, ST, LDF, STF, LDB, STB (44_memory_access.md R195 to
R206). -/

namespace Sys2Proof.Machine

/-- LD Rd, Cs(Ra) (44_memory_access.md R199). -/
def execLd (d a : GReg) (n : Int) (s : State) : Result := loadItem (wordAddr (s.R a) n) (fun t v => t.setR d v) s

/-- ST Cs(Ra), Rb (44_memory_access.md R202). -/
def execSt (b a : GReg) (n : Int) (s : State) : Result := storeItem (wordAddr (s.R a) n) (s.R b) s

/-- LDF Fd, Cs(Ra): the 16 bits are copied unchanged (44_memory_access.md R200). -/
def execLdf (d : FReg) (a : GReg) (n : Int) (s : State) : Result :=
  loadItem (wordAddr (s.R a) n) (fun t v => t.setF d v) s

/-- STF Cs(Ra), Fb (44_memory_access.md R203). -/
def execStf (b : FReg) (a : GReg) (n : Int) (s : State) : Result := storeItem (wordAddr (s.R a) n) (s.F b) s

/-- LDB Rd, Cs(Ra): the byte is sign-extended, at any address (44_memory_access.md R198). -/
def execLdb (d a : GReg) (n : Int) (s : State) : Result :=
  onRead [byteAddr (s.R a) n] (.next (s.setR d (sextByte (s.readByte (byteAddr (s.R a) n)))))

/-- STB Cs(Ra), Rb: one byte, the low byte of Rb, at any address (44_memory_access.md R201). -/
def execStb (b a : GReg) (n : Int) (s : State) : Result :=
  onWrite [byteAddr (s.R a) n] (.next (s.writeByte (byteAddr (s.R a) n) (lowByte (s.R b))))

end Sys2Proof.Machine
end

