-- ==== Sys2Proof/Machine/MulDiv.lean ====
section
/-! DEFINITION. Operation code 1000: MUL, MULH, MULHU, DIV, DIVU (40_arith_logic.md R130 to R137). -/

namespace Sys2Proof.Machine

/-- `P[31:16]` of a product taken as a 32-bit vector (40_arith_logic.md R133, R134). -/
def highHalf (p : BitVec 32) : Word := p.extractLsb' 16 16

/-- MUL Rd, Ra, Rb: the 16 low bits of the product (40_arith_logic.md R132). -/
def execMul (d a b : GReg) (s : State) : Result := regOp (fun x y => BitVec.ofNat 16 (x.toNat * y.toNat)) d a b s

/-- MULH Rd, Ra, Rb: the 16 high bits of the product of integers (40_arith_logic.md R133). -/
def execMulh (d a b : GReg) (s : State) : Result :=
  regOp (fun x y => highHalf (BitVec.ofInt 32 (x.toInt * y.toInt))) d a b s

/-- MULHU Rd, Ra, Rb: the 16 high bits of the product of naturals (40_arith_logic.md R134). -/
def execMulhu (d a b : GReg) (s : State) : Result :=
  regOp (fun x y => highHalf (BitVec.ofNat 32 (x.toNat * y.toNat))) d a b s

/-- DIV Rd, Ra, Rb: truncated toward zero; a zero divisor raises code 4, and -2^15 / -1 writes a free value (40_arith_logic.md
R136). Log entry 1. -/
def execDiv (d a b : GReg) (s : State) : Result :=
  if s.R b = 0x0000#16 then raise .intDivZero s
  else if s.R a = 0x8000#16 ∧ s.R b = 0xFFFF#16 then .next (s.setR d (Config.divOverflowValue s.tick))
  else .next (s.setR d (BitVec.ofInt 16 (Int.tdiv (s.R a).toInt (s.R b).toInt)))

/-- DIVU Rd, Ra, Rb: naturals; a zero divisor raises code 4 (40_arith_logic.md R137). -/
def execDivu (d a b : GReg) (s : State) : Result :=
  if s.R b = 0x0000#16 then raise .intDivZero s
  else .next (s.setR d (BitVec.ofNat 16 ((s.R a).toNat / (s.R b).toNat)))

end Sys2Proof.Machine
end

