-- ==== Sys2Proof/Machine/Special.lean ====
section
/-! DEFINITION. Operation code 1111: EI, DI, RETI, GETIID, RDS, WRS, HALT (47_io_and_special.md R243 to R262). There is one
mode, and no instruction checks a privilege (60_exceptions.md R300). -/

namespace Sys2Proof.Machine

/-- EI (47_io_and_special.md R244). -/
def execEi (s : State) : Result := .next (s.setS S7 (permitInterrupts (s.S S7)))

/-- DI (47_io_and_special.md R245). -/
def execDi (s : State) : Result := .next (s.setS S7 (inhibitInterrupts (s.S S7)))

/-- RETI (47_io_and_special.md R246). -/
def execReti (s : State) : Result := .next (returnFromTrap s)

/-- The identifier on the data bus: the device's answer while a request stands, a free value while none does
(47_io_and_special.md R247). Log entries 3 and 4. -/
def busIdentifier (s : State) : Word := if s.env.intReq then s.env.iid else Config.strayInterruptId s.tick

/-- GETIID Rd: acknowledge, then the identifier (47_io_and_special.md R247). -/
def execGetiid (d : GReg) (s : State) : Result := .next ((s.record .inta).setR d (busIdentifier s))

/-- RDS Rd, Sa (47_io_and_special.md R248). -/
def execRds (d : GReg) (a : SReg) (s : State) : Result := .next (s.setR d (s.S a))

/-- WRS Sd, Ra: of S2 the four low bits only (47_io_and_special.md R249). -/
def execWrs (d : SReg) (a : GReg) (s : State) : Result := .next (s.setS d (s.R a))

/-- HALT (47_io_and_special.md R261). -/
def execHalt (s : State) : Result := .next { s with halted := true }

end Sys2Proof.Machine
end

