-- ==== Sys2Proof/Machine/Transfer.lean ====
section
/-! DEFINITION. Operation codes 0110 and 1010: BZ, BNZ, JZ, JNZ, JMP, JAL (45_control_transfer.md R215 to R226). `s.pc` is
`pcup` here; a jump copies all 16 bits, and an odd target is found at the next fetch (R225). -/

namespace Sys2Proof.Machine

/-- BZ Rb, label: the test is on all 16 bits (45_control_transfer.md R216). -/
def execBz (b : GReg) (n : Int) (s : State) : Result := jumpIf (decide (s.R b = 0)) (branchTarget s.pc n) s

/-- BNZ Rb, label (45_control_transfer.md R217). -/
def execBnz (b : GReg) (n : Int) (s : State) : Result := jumpIf (decide (s.R b ≠ 0)) (branchTarget s.pc n) s

/-- JZ Rb, Ra (45_control_transfer.md R221). -/
def execJz (b a : GReg) (s : State) : Result := jumpIf (decide (s.R b = 0)) (s.R a) s

/-- JNZ Rb, Ra (45_control_transfer.md R222). -/
def execJnz (b a : GReg) (s : State) : Result := jumpIf (decide (s.R b ≠ 0)) (s.R a) s

/-- JMP Ra (45_control_transfer.md R223). -/
def execJmp (a : GReg) (s : State) : Result := .next (s.setPc (s.R a))

/-- JAL Rd, Ra: the target is read before the link register is written (45_control_transfer.md R224). -/
def execJal (d a : GReg) (s : State) : Result := .next ((s.setR d s.pc).setPc (s.R a))

end Sys2Proof.Machine
end

