-- ==== Sys2Proof/Machine/Dispatch.lean ====
section
/-! DEFINITION. The dispatch: one arm per instruction, each a call of its meaning. -/

namespace Sys2Proof.Machine

/-- The effect of an instruction on a state whose `pc` is already `pcup` (10_state.md R24). -/
def exec (i : Instr) (s : State) : Host.Outcome State Fault Refusal :=
  match i with
  | .and d a b => Sys2Proof.Machine.execAnd d a b s
  | .or d a b => Sys2Proof.Machine.execOr d a b s
  | .xor d a b => Sys2Proof.Machine.execXor d a b s
  | .not d a => Sys2Proof.Machine.execNot d a s
  | .add d a b => Sys2Proof.Machine.execAdd d a b s
  | .sub d a b => Sys2Proof.Machine.execSub d a b s
  | .sha d a b => Sys2Proof.Machine.execSha d a b s
  | .shl d a b => Sys2Proof.Machine.execShl d a b s
  | .cmplt d a b => Sys2Proof.Machine.execCmplt d a b s
  | .cmple d a b => Sys2Proof.Machine.execCmple d a b s
  | .cmpeq d a b => Sys2Proof.Machine.execCmpeq d a b s
  | .cmpltu d a b => Sys2Proof.Machine.execCmpltu d a b s
  | .cmpleu d a b => Sys2Proof.Machine.execCmpleu d a b s
  | .addi d a n => Sys2Proof.Machine.execAddi d a n s
  | .ld d a n => Sys2Proof.Machine.execLd d a n s
  | .st b a n => Sys2Proof.Machine.execSt b a n s
  | .movi d n => Sys2Proof.Machine.execMovi d n s
  | .movhi d n => Sys2Proof.Machine.execMovhi d n s
  | .bz b n => Sys2Proof.Machine.execBz b n s
  | .bnz b n => Sys2Proof.Machine.execBnz b n s
  | .inp d p => Sys2Proof.Machine.execIn d p s
  | .out b p => Sys2Proof.Machine.execOut b p s
  | .mul d a b => Sys2Proof.Machine.execMul d a b s
  | .mulh d a b => Sys2Proof.Machine.execMulh d a b s
  | .mulhu d a b => Sys2Proof.Machine.execMulhu d a b s
  | .div d a b => Sys2Proof.Machine.execDiv d a b s
  | .divu d a b => Sys2Proof.Machine.execDivu d a b s
  | .addf d a b => Sys2Proof.Machine.execAddf d a b s
  | .subf d a b => Sys2Proof.Machine.execSubf d a b s
  | .mulf d a b => Sys2Proof.Machine.execMulf d a b s
  | .divf d a b => Sys2Proof.Machine.execDivf d a b s
  | .cmpltf d a b => Sys2Proof.Machine.execCmpltf d a b s
  | .cmplef d a b => Sys2Proof.Machine.execCmplef d a b s
  | .cmpeqf d a b => Sys2Proof.Machine.execCmpeqf d a b s
  | .jz b a => Sys2Proof.Machine.execJz b a s
  | .jnz b a => Sys2Proof.Machine.execJnz b a s
  | .jmp a => Sys2Proof.Machine.execJmp a s
  | .jal d a => Sys2Proof.Machine.execJal d a s
  | .ldf d a n => Sys2Proof.Machine.execLdf d a n s
  | .stf b a n => Sys2Proof.Machine.execStf b a n s
  | .ldb d a n => Sys2Proof.Machine.execLdb d a n s
  | .stb b a n => Sys2Proof.Machine.execStb b a n s
  | .ei => Sys2Proof.Machine.execEi s
  | .di => Sys2Proof.Machine.execDi s
  | .reti => Sys2Proof.Machine.execReti s
  | .getiid d => Sys2Proof.Machine.execGetiid d s
  | .rds d a => Sys2Proof.Machine.execRds d a s
  | .wrs d a => Sys2Proof.Machine.execWrs d a s
  | .halt => Sys2Proof.Machine.execHalt s

end Sys2Proof.Machine
end

