-- ==== Sys2Proof/Machine/Boundary.lean ====
section
/-! DEFINITION. One step of the machine: what happens at an instruction boundary, the fetch, and the move of the environment
on to the next boundary (10_state.md R24; 60_exceptions.md R281, R283, R287). -/

namespace Sys2Proof.Machine

/-- An interrupt is taken at this boundary: requested, and permitted by PSW.I (60_exceptions.md R281). -/
def interruptTaken (s : State) : Bool := statusI (s.S S7) && s.env.intReq

/-- A step of a halted machine: the run has ended (47_io_and_special.md R262). -/
def haltedStep : Result :=
  match haltBehaviour with
  | .terminal => .fault .halted
  | .platformDefined => .refused .haltPlatformDefined

/-- `pc <- pcup`, before decode, for every instruction, modulo 2^16 (10_state.md R23, R25). -/
def advancePc (s : State) : State := s.setPc (s.pc + 2)

/-- Runs a fetched word: the instruction it decodes to, or the illegal-instruction exception (10_state.md R24,
60_exceptions.md R272). -/
def runWord (w : Word) (s : State) : Result :=
  match decode w with
  | .ok i => exec i (advancePc s)
  | .error _ => raise .illegalInstruction (advancePc s)

/-- One instruction step. An odd `pc` reads no memory and raises code 1 with `pcup` as the return address (10_state.md R24,
60_exceptions.md R287). -/
def instructionStep (s : State) : Result :=
  if isOdd s.pc then raise (.misaligned s.pc) (advancePc s)
  else onRead (itemBytes s.pc) (runWord (s.readWord s.pc) s)

/-- The complete step (60_exceptions.md R281). An interrupt saves the address of the instruction not yet fetched. -/
def machineStep (s : State) : Result :=
  if s.halted then haltedStep
  else if interruptTaken s then .next (trapEntry .interrupt s.pc s)
  else instructionStep s

/-- What the environment presents at the next step: the head of the script, or else a free choice (60_exceptions.md R283).
Log entry 4. -/
def nextEnv (s : State) : EnvInputs :=
  match s.script with
  | e :: _ => e
  | [] => Config.environment (s.tick + 1)

/-- The end of a step: the environment presents its next inputs, and the free values of the next step are new ones. Log
entries 4 and 11. -/
def endStep (s : State) : State := { s with env := nextEnv s, script := s.script.tail, tick := s.tick + 1 }

/-- A state in which the coming step fetches and runs this instruction word: stored little-endian at `pc`, with the machine
running, no interrupt requested and `pc` even, which the fetch needs. Log entry 14. -/
def placeWord (s : State) (lo hi : Byte) : State :=
  let s1 := { s with halted := false, env := { s.env with intReq := false } }
  let s2 := s1.setPc (s.pc &&& 0xFFFE#16)
  (s2.writeByte s2.pc lo).writeByte (s2.pc + 1) hi

end Sys2Proof.Machine
end

