-- ==== Sys2Proof/Machine/Step.lean ====
section
/-! DEFINITION. The step of the machine, and the state whose next step runs a given word. -/

namespace Sys2Proof.Machine

/-- One step: the complete step of 60_exceptions.md R281, after which the environment moves on to the next boundary. -/
def step (s : State) : Host.Outcome State Fault Refusal := onNext (machineStep s) endStep

/-- `s` with the instruction whose bits are `w`, as spec/opcode_table.json numbers them, stored where `step` fetches. -/
def State.withFetchWord (s : State) (nbits w : Nat) : State :=
  placeWord s (BitVec.ofNat 8 (w % 2 ^ nbits)) (BitVec.ofNat 8 (w % 2 ^ nbits / 256))

end Sys2Proof.Machine
end

