-- ==== Sys2Proof/Machine/Assembler.lean ====
section
/-! DEFINITION. What the source says of the assembler: the operand syntax of every instruction, and how a constant or a label
becomes the field N (30_encoding.md R110 to R113; 44_memory_access.md R205). A whole assembler is out of scope (00_scope.md
R6 (d)). -/

namespace Sys2Proof.Machine

/-- `Cs` of LDB and STB: N = Cs, in -32 to 31 (30_encoding.md R112). -/
def asmByteDisp (cs : Int) : Option Int := if fitsField6 cs then some cs else none

/-- `Cs` of LD, ST, LDF and STF, an even number of bytes: N = Cs / 2, Cs in -64 to 62 (30_encoding.md R112). The source does
not say what an odd or too large Cs does; no field is given. -/
def asmWordDisp (cs : Int) : Option Int := if cs % 2 = 0 ∧ fitsField6 (cs / 2) then some (cs / 2) else none

/-- The field of a BZ or BNZ at `branch` to `label`: N = (label - branch - 2) / 2, in -128 to 127 (30_encoding.md R113). -/
def asmBranch (label branch : Word) : Option Int :=
  let gap := (label - (branch + 2)).toInt
  if gap % 2 = 0 ∧ fitsField8 (gap / 2) then some (gap / 2) else none

/-- `R0` to `R7` (30_encoding.md R110). -/
def GReg.asm (r : GReg) : String := "R" ++ toString r.num.val

/-- `F0` to `F7` (30_encoding.md R110). -/
def FReg.asm (r : FReg) : String := "F" ++ toString r.num.val

/-- `S0` to `S7` (30_encoding.md R110). -/
def SReg.asm (r : SReg) : String := "S" ++ toString r.num.val

/-- `MNEMO x, y, z` (30_encoding.md R110). -/
def asmLine (mnemonic : String) (operands : List String) : String :=
  if operands.isEmpty then mnemonic else mnemonic ++ " " ++ String.intercalate ", " operands

/-- `Cs(Ra)` (30_encoding.md R111). -/
def asmIndexed (cs : Int) (a : GReg) : String := toString cs ++ "(" ++ GReg.asm a ++ ")"

/-- The assembler sentence of an instruction (30_encoding.md R111). A branch shows its displacement in instructions where a
program shows a label, as the examples of 45_control_transfer.md R216 do. -/
def assembly : Instr → String
  | .and d a b => asmLine "AND" [GReg.asm d, GReg.asm a, GReg.asm b]
  | .or d a b => asmLine "OR" [GReg.asm d, GReg.asm a, GReg.asm b]
  | .xor d a b => asmLine "XOR" [GReg.asm d, GReg.asm a, GReg.asm b]
  | .not d a => asmLine "NOT" [GReg.asm d, GReg.asm a]
  | .add d a b => asmLine "ADD" [GReg.asm d, GReg.asm a, GReg.asm b]
  | .sub d a b => asmLine "SUB" [GReg.asm d, GReg.asm a, GReg.asm b]
  | .sha d a b => asmLine "SHA" [GReg.asm d, GReg.asm a, GReg.asm b]
  | .shl d a b => asmLine "SHL" [GReg.asm d, GReg.asm a, GReg.asm b]
  | .cmplt d a b => asmLine "CMPLT" [GReg.asm d, GReg.asm a, GReg.asm b]
  | .cmple d a b => asmLine "CMPLE" [GReg.asm d, GReg.asm a, GReg.asm b]
  | .cmpeq d a b => asmLine "CMPEQ" [GReg.asm d, GReg.asm a, GReg.asm b]
  | .cmpltu d a b => asmLine "CMPLTU" [GReg.asm d, GReg.asm a, GReg.asm b]
  | .cmpleu d a b => asmLine "CMPLEU" [GReg.asm d, GReg.asm a, GReg.asm b]
  | .addi d a n => asmLine "ADDI" [GReg.asm d, GReg.asm a, toString n]
  | .ld d a n => asmLine "LD" [GReg.asm d, asmIndexed (2 * n) a]
  | .st b a n => asmLine "ST" [asmIndexed (2 * n) a, GReg.asm b]
  | .movi d n => asmLine "MOVI" [GReg.asm d, toString n]
  | .movhi d n => asmLine "MOVHI" [GReg.asm d, toString n.toInt]
  | .bz b n => asmLine "BZ" [GReg.asm b, toString n]
  | .bnz b n => asmLine "BNZ" [GReg.asm b, toString n]
  | .inp d p => asmLine "IN" [GReg.asm d, toString p.val]
  | .out b p => asmLine "OUT" [toString p.val, GReg.asm b]
  | .mul d a b => asmLine "MUL" [GReg.asm d, GReg.asm a, GReg.asm b]
  | .mulh d a b => asmLine "MULH" [GReg.asm d, GReg.asm a, GReg.asm b]
  | .mulhu d a b => asmLine "MULHU" [GReg.asm d, GReg.asm a, GReg.asm b]
  | .div d a b => asmLine "DIV" [GReg.asm d, GReg.asm a, GReg.asm b]
  | .divu d a b => asmLine "DIVU" [GReg.asm d, GReg.asm a, GReg.asm b]
  | .addf d a b => asmLine "ADDF" [FReg.asm d, FReg.asm a, FReg.asm b]
  | .subf d a b => asmLine "SUBF" [FReg.asm d, FReg.asm a, FReg.asm b]
  | .mulf d a b => asmLine "MULF" [FReg.asm d, FReg.asm a, FReg.asm b]
  | .divf d a b => asmLine "DIVF" [FReg.asm d, FReg.asm a, FReg.asm b]
  | .cmpltf d a b => asmLine "CMPLTF" [GReg.asm d, FReg.asm a, FReg.asm b]
  | .cmplef d a b => asmLine "CMPLEF" [GReg.asm d, FReg.asm a, FReg.asm b]
  | .cmpeqf d a b => asmLine "CMPEQF" [GReg.asm d, FReg.asm a, FReg.asm b]
  | .jz b a => asmLine "JZ" [GReg.asm b, GReg.asm a]
  | .jnz b a => asmLine "JNZ" [GReg.asm b, GReg.asm a]
  | .jmp a => asmLine "JMP" [GReg.asm a]
  | .jal d a => asmLine "JAL" [GReg.asm d, GReg.asm a]
  | .ldf d a n => asmLine "LDF" [FReg.asm d, asmIndexed (2 * n) a]
  | .stf b a n => asmLine "STF" [asmIndexed (2 * n) a, FReg.asm b]
  | .ldb d a n => asmLine "LDB" [GReg.asm d, asmIndexed n a]
  | .stb b a n => asmLine "STB" [asmIndexed n a, GReg.asm b]
  | .ei => asmLine "EI" []
  | .di => asmLine "DI" []
  | .reti => asmLine "RETI" []
  | .getiid d => asmLine "GETIID" [GReg.asm d]
  | .rds d a => asmLine "RDS" [GReg.asm d, SReg.asm a]
  | .wrs d a => asmLine "WRS" [SReg.asm d, GReg.asm a]
  | .halt => asmLine "HALT" []

end Sys2Proof.Machine
end

