-- ==== Sys2Proof/Safety.lean ====
section
/-! DEFINITION. The terms claims about the machine use: that a meaning completes, what an instruction may change, what entering
the handler means, the invariant of the state, and what a safe step is. -/

namespace Sys2Proof.Machine

/-- The answer is a next state, and that state is as `P` says. -/
def Completes (r : Result) (P : State → Prop) : Prop := ∃ t, r = .next t ∧ P t

/-! ## Frames -/

/-- What an instruction may change beside the program counter. The default is nothing. -/
structure Touched where
  /-- the general registers it may write -/
  gs : List GReg := []
  /-- the floating-point registers it may write -/
  fs : List FReg := []
  /-- the special registers it may write -/
  ss : List SReg := []
  /-- the addresses of the memory bytes it may write -/
  bytes : List Word := []
  /-- the output registers it may write -/
  ports : List Port := []
  /-- the events it adds to the history -/
  events : List IoEvent := []
  /-- it stops the machine -/
  halts : Bool := false

/-- From `s` to `t` nothing changes but the program counter and what `w` names: every other register, every other byte of
memory (through the machine's read of one byte), every other output register, the inputs and the model's own fields are
as before. -/
structure OnlyChanges (w : Touched) (s t : State) : Prop where
  gprs    : ∀ r, r ∉ w.gs → t.R r = s.R r
  fprs    : ∀ r, r ∉ w.fs → t.F r = s.F r
  sprs    : ∀ x, x ∉ w.ss → t.S x = s.S x
  memory  : ∀ a, a ∉ w.bytes → t.readByte a = s.readByte a
  outputs : ∀ p, p ∉ w.ports → t.outPort p = s.outPort p
  history : t.history = s.history ++ w.events
  halted  : t.halted = (s.halted || w.halts)
  env     : t.env = s.env
  script  : t.script = s.script
  tick    : t.tick = s.tick

/-- The special registers a trap entry writes that is not for a misaligned access (60_exceptions.md R285). -/
def trapSpecials : List SReg := [S0, S1, S2, S7]

/-- The special registers a trap entry for a misaligned access writes (60_exceptions.md R285). -/
def misalignedSpecials : List SReg := [S0, S1, S2, S3, S7]

/-- What each instruction may change, an exception of its own included (60_exceptions.md R278): its destination register, the
bytes it stores, the port it writes, the event it records. -/
def touchedBy (i : Instr) (s : State) : Touched :=
  match i with
  | .and d _ _ | .or d _ _ | .xor d _ _ | .not d _ | .add d _ _ | .sub d _ _ | .sha d _ _ | .shl d _ _
  | .cmplt d _ _ | .cmple d _ _ | .cmpeq d _ _ | .cmpltu d _ _ | .cmpleu d _ _
  | .addi d _ _ | .movi d _ | .movhi d _ | .mul d _ _ | .mulh d _ _ | .mulhu d _ _
  | .cmpltf d _ _ | .cmplef d _ _ | .cmpeqf d _ _ | .jal d _ | .ldb d _ _ | .rds d _ => { gs := [d] }
  | .div d _ _ | .divu d _ _ => { gs := [d], ss := trapSpecials }
  | .addf d _ _ | .subf d _ _ | .mulf d _ _ | .divf d _ _ => { fs := [d], ss := trapSpecials }
  | .ld d _ _ => { gs := [d], ss := misalignedSpecials }
  | .ldf d _ _ => { fs := [d], ss := misalignedSpecials }
  | .st _ a n => { bytes := itemBytes (wordAddr (s.R a) n), ss := misalignedSpecials }
  | .stf _ a n => { bytes := itemBytes (wordAddr (s.R a) n), ss := misalignedSpecials }
  | .stb _ a n => { bytes := [byteAddr (s.R a) n] }
  | .inp d p => { gs := [d], events := [.inRead p (s.inPort p)] }
  | .out b p => { ports := [p], events := [.outWrite p (s.R b)] }
  | .getiid d => { gs := [d], events := [.inta] }
  | .ei | .di | .reti => { ss := [S7] }
  | .wrs d _ => { ss := [d] }
  | .halt => { halts := true }
  | .bz _ _ | .bnz _ _ | .jz _ _ | .jnz _ _ | .jmp _ => {}

/-! ## Control -/

/-- The instructions that load the PC as their own effect (45_control_transfer.md, 47_io_and_special.md R246). -/
def isTransfer : Instr → Bool
  | .bz _ _ | .bnz _ _ | .jz _ _ | .jnz _ _ | .jmp _ | .jal _ _ | .reti => true
  | _ => false

/-- The instructions that can raise an exception of their own (60_exceptions.md R278). -/
def mayRaise : Instr → Bool
  | .ld _ _ _ | .st _ _ _ | .ldf _ _ _ | .stf _ _ _ => true
  | .addf _ _ _ | .subf _ _ _ | .mulf _ _ _ | .divf _ _ _ => true
  | .div _ _ _ | .divu _ _ _ => true
  | _ => false

/-- The address of the 16-bit access of LD, ST, LDF and STF (44_memory_access.md R197). -/
def wordAccess (i : Instr) (s : State) : Option Word :=
  match i with
  | .ld _ a n | .st _ a n | .ldf _ a n | .stf _ a n => some (wordAddr (s.R a) n)
  | _ => none

/-- From `s` to `t` the handler is entered for the event `c` with the return address `ret` (60_exceptions.md R285). -/
structure EntersHandler (c : TrapCause) (ret : Word) (s t : State) : Prop where
  savedStatus : t.S S0 = s.S S7
  returnAddr  : t.S S1 = ret
  code        : t.S S2 = zextCode c.code
  address     : ∀ addr, c = .misaligned addr → t.S S3 = addr
  keptAddress : (∀ addr, c ≠ .misaligned addr) → t.S S3 = s.S S3
  handler     : t.pc = s.S S5
  inhibited   : statusI (t.S S7) = false
  statusBits  : ∀ k, k ≠ 1 → (t.S S7).getLsbD k = (s.S S7).getLsbD k
  frame       : OnlyChanges { ss := misalignedSpecials } s t

/-- The coming step starts an instruction: the machine is not halted and no interrupt is taken (60_exceptions.md R281). -/
def AtInstruction (s : State) : Prop := s.halted = false ∧ (statusI (s.S S7) = false ∨ s.env.intReq = false)

/-- The coming step fetches and runs `i` (10_state.md R24). -/
def RunsAt (s : State) (i : Instr) : Prop :=
  AtInstruction s ∧ isOdd s.pc = false ∧ decode (s.readWord s.pc) = .ok i

/-! ## Floating point -/

/-- The outcome is the real number `r` truncated toward zero to 10 significant bits (41_float.md R158): an overflow from 2^33
on, a zero below the smallest number that has an encoding, else a number of the sign of `r` that is at most `r` in
magnitude and less than one unit in the last place below it. -/
def Truncates (r : ℚ) (o : FloatOutcome) : Prop :=
  match o with
  | .value v =>
    if fIsZero v then |r| < (2 : ℚ) ^ (-31 : ℤ) * (513 / 512)
    else 0 < fval v * r ∧ |fval v| ≤ |r| ∧ |r| < |fval v| + (2 : ℚ) ^ ((fExp v : ℤ) - 40)
  | .overflow => (2 : ℚ) ^ (33 : ℤ) ≤ |r|
  | .divZero => False

/-! ## Invariant and safe steps -/

/-- The invariant of the state: memory is in its canonical form, and S2[15:4] are 0 (20_memory.md R60; 10_state.md R33). -/
def Inv (s : State) : Prop := s.mem.wf = true ∧ s.S S2 &&& 0xFFF0#16 = 0

/-- A safe step: it keeps the invariant, or it is the step of a machine that HALT has stopped; it is never refused. -/
def SafeStep (s : State) : Prop :=
  match step s with
  | .next t => s.halted = false ∧ Inv t
  | .fault r => r = .halted ∧ s.halted = true
  | .refused _ => False

/-- `t` is reached from `s` by steps that all answer a next state. -/
inductive Reaches : State → State → Prop where
  | refl (s : State) : Reaches s s
  | oneMore (s t u : State) : Reaches s t → step t = .next u → Reaches s u

end Sys2Proof.Machine
end

