-- ==== Sys2Proof/Certificates/Slice0/Obligations.lean ====
section
/-! DEFINITION. The statements about the machine. In every statement about `exec` the state is the one a meaning runs in: its
`pc` is already `pcup`, the address of the instruction plus 2 (00_scope.md R16). -/

open Sys2Proof Sys2Proof.Machine

/-! ## Encoding -/

/-- Words written out bit by bit from 30_encoding.md R99 to R103 decode to the instructions they stand for. -/
def Obligations.SampleWordsDecode : Prop :=
  decode 0b0000001010100011#16 = .ok (.add ⟨1⟩ ⟨2⟩ ⟨3⟩) ∧
  decode 0b0001001010101011#16 = .ok (.cmpleu ⟨1⟩ ⟨2⟩ ⟨3⟩) ∧
  decode 0b0100001010111111#16 = .ok (.st ⟨1⟩ ⟨2⟩ (-1)) ∧
  decode 0b0110001111111110#16 = .ok (.bnz ⟨1⟩ (-2)) ∧
  decode 0b1000001010010011#16 = .ok (.mulhu ⟨1⟩ ⟨2⟩ ⟨3⟩) ∧
  decode 0b1001001010111011#16 = .ok (.cmpeqf ⟨1⟩ ⟨2⟩ ⟨3⟩) ∧
  decode 0b1010001010000100#16 = .ok (.jal ⟨1⟩ ⟨2⟩) ∧
  decode 0b1111101001110000#16 = .ok (.wrs ⟨5⟩ ⟨1⟩)

/-- The decoder reads back every well-formed instruction the encoder writes (30_encoding.md R95 to R103). -/
def Obligations.DecodeEncodeRoundTrip : Prop :=
  ∀ i : Instr, WellFormed i = true → decode (encode i) = .ok i

/-- A word that decodes is the encoding of the well-formed instruction it decodes to: no bit of a defined word is ignored.
This rests on the default of FIXED_FIELD_POLICY (30_encoding.md R108, decision D2, log entry 7). -/
def Obligations.DecodedWordIsItsEncoding : Prop :=
  ∀ (w : Word) (i : Instr), decode w = .ok i → WellFormed i = true ∧ encode i = w

/-- The words that decode are exactly those that match a row of the opcode table, and a word that decodes to `i` matches the
row of `i` itself (30_encoding.md R99 to R104, R108; log entry 7). -/
def Obligations.DecodeAcceptsExactlyTheTable : Prop :=
  ∀ w : Word, ((∃ i, decode w = .ok i) ↔ ∃ i : Instr, w &&& (rowOf i).mask = (rowOf i).pattern) ∧
    ∀ i, decode w = .ok i → w &&& (rowOf i).mask = (rowOf i).pattern

/-- Two instructions whose rows of the opcode table match one word are one mnemonic, with one row: they have the same
constructor of `Instr` (30_encoding.md R99 to R103). -/
def Obligations.OpcodeRowsAreDisjoint : Prop :=
  ∀ (i j : Instr) (w : Word), w &&& (rowOf i).mask = (rowOf i).pattern → w &&& (rowOf j).mask = (rowOf j).pattern →
    i.ctorIdx = j.ctorIdx ∧ rowOf i = rowOf j

/-- Both values of FIXED_FIELD_POLICY on the words whose field without meaning is `x` or `y`: under `ignore` the field is not
decoded; under `illegal` it must hold its value; function 11111 needs all ones under both (30_encoding.md R96, R108,
decision D2, log entry 7). -/
def Obligations.FixedFieldPolicyDecides : Prop :=
  (∀ d a x, decodeWith .ignore (word3Reg 0b0000#4 d a 0b011#3 x) = .ok (.not (gregOf d) (gregOf a)) ∧
    (decodeWith .illegal (word3Reg 0b0000#4 d a 0b011#3 x) =
      if x = 0 then .ok (.not (gregOf d) (gregOf a)) else .error .fixedField)) ∧
  (∀ a x, decodeWith .ignore (word2Reg 0b1010#4 x a 0b000011#6) = .ok (.jmp (gregOf a)) ∧
    (decodeWith .illegal (word2Reg 0b1010#4 x a 0b000011#6) =
      if x = 0 then .ok (.jmp (gregOf a)) else .error .fixedField)) ∧
  (∀ d x, decodeWith .ignore (word2Reg 0b1111#4 d x 0b101000#6) = .ok (.getiid (gregOf d)) ∧
    (decodeWith .illegal (word2Reg 0b1111#4 d x 0b101000#6) =
      if x = 0 then .ok (.getiid (gregOf d)) else .error .fixedField)) ∧
  (∀ f i, (f, i) ∈ [(0b100000#6, Instr.ei), (0b100001#6, Instr.di), (0b100100#6, Instr.reti)] → ∀ x y,
    decodeWith .ignore (word2Reg 0b1111#4 x y f) = .ok i ∧
    (decodeWith .illegal (word2Reg 0b1111#4 x y f) = if x = 0 ∧ y = 0 then .ok i else .error .fixedField)) ∧
  (∀ p x y, decodeWith p (word2Reg 0b1111#4 x y 0b111111#6) =
    if x = 7 ∧ y = 7 then .ok .halt else .error .fixedField)

/-! ## The step -/

/-- When the bytes at an even `pc` decode to `i`, the machine runs and no interrupt is taken, the step is `exec i` on the state
with `pc` moved past the instruction, and then the move of the environment on to the next boundary (10_state.md R24,
60_exceptions.md R281; log entries 4 and 11 for `endStep`). -/
def Obligations.StepRunsTheDecodedInstruction : Prop :=
  ∀ (s : State) (i : Instr), RunsAt s i → step s = onNext (exec i (advancePc s)) endStep

/-- The state `withFetchWord` makes runs the given word at its next step: the loading of a program, which the spec leaves
outside the machine (70_reset_and_hazards.md R312, log entry 14). -/
def Obligations.WithFetchWordRunsThatWord : Prop :=
  ∀ (s : State) (w : Nat), w < 65536 →
    step (s.withFetchWord 16 w) = onNext (runWord (BitVec.ofNat 16 w) (s.withFetchWord 16 w)) endStep

/-- A word of operation code 1111 with an unused function code enters the handler with code 0 and the address of the word + 2,
whatever the rest of the word (30_encoding.md R106; 60_exceptions.md R286; log entries 4 and 11 for `endStep`). -/
def Obligations.UnusedSpecialCodesAreIllegal : Prop :=
  ∀ s : State, AtInstruction s → isOdd s.pc = false →
    slice (s.readWord s.pc) 12 4 = 0b1111#4 →
    slice (s.readWord s.pc) 0 6 ∉
      [0b100000#6, 0b100001#6, 0b100100#6, 0b101000#6, 0b101100#6, 0b110000#6, 0b111111#6] →
    ∃ u, EntersHandler .illegalInstruction (s.pc + 2) s u ∧ u.S S2 = 0 ∧ step s = .next (endStep u)

/-- Every word that is no defined instruction enters the handler with code 0 (30_encoding.md R107, 60_exceptions.md R272,
decisions D1 and D2, log entries 7 and 16). -/
def Obligations.UndefinedWordsAreIllegal : Prop :=
  ∀ (s : State) (r : DecodeReject), AtInstruction s → isOdd s.pc = false → decode (s.readWord s.pc) = .error r →
    ∃ u, EntersHandler .illegalInstruction (s.pc + 2) s u ∧ u.S S2 = 0 ∧ step s = .next (endStep u)

/-- A fetch at an odd `pc` reads no instruction and enters the handler with code 1, S1 = pc + 2 and S3 = pc
(60_exceptions.md R287, decision D9, log entry 17). -/
def Obligations.OddFetchEntersHandler : Prop :=
  ∀ s : State, AtInstruction s → isOdd s.pc = true →
    ∃ u, EntersHandler (.misaligned s.pc) (s.pc + 2) s u ∧ u.S S2 = 1 ∧ u.S S3 = s.pc ∧ step s = .next (endStep u)

/-- With a request and PSW.I = 1 the interrupt is taken before the next instruction is fetched: code 15, S1 = pc
(60_exceptions.md R281, decision D10, log entry 18). -/
def Obligations.InterruptIsTakenAtTheBoundary : Prop :=
  ∀ s : State, s.halted = false → s.env.intReq = true → statusI (s.S S7) = true →
    ∃ u, EntersHandler .interrupt s.pc s u ∧ u.S S2 = 0x000F#16 ∧ step s = .next (endStep u)

/-- A halted machine takes no step and no interrupt (47_io_and_special.md R262, decision D15, log entry 9). -/
def Obligations.HaltedMachineStops : Prop :=
  ∀ s : State, s.halted = true → step s = .fault .halted

/-- No word in memory and no register content stops a machine that HALT has not stopped: every step answers a next state. It
rests on the default of MEM_MAP (20_memory.md R72, log entry 10). -/
def Obligations.RunningMachineAlwaysSteps : Prop :=
  ∀ s : State, s.halted = false → ∃ t, step s = .next t

/-- The step keeps the invariant: the canonical form of memory, and S2[15:4] = 0 (10_state.md R33). -/
def Obligations.StepKeepsTheInvariant : Prop :=
  ∀ s t : State, Inv s → step s = .next t → Inv t

/-- The invariant holds after reset; that S2[15:4] are 0 is the spec's, the four low bits are the model's choice (log entry 6). -/
def Obligations.ResetHasTheInvariant : Prop := Inv State.reset

/-- Every state reached from a state with the invariant steps safely: no refusal, no fault but that of a halted machine. That
no step is refused is the model's choice, not a rule: it rests on the default of MEM_MAP (20_memory.md R72, decision D18, log
entry 10), and with the fault of a halted machine on the default of HALT_BEHAVIOUR (47_io_and_special.md R262, decision D15,
log entry 9). -/
def Obligations.ReachedStatesStepSafely : Prop :=
  ∀ s t : State, Inv s → Reaches s t → SafeStep t

/-- What the spec states of the machine after reset, at the defaults of RESET_PC and RESET_PSW (70_reset_and_hazards.md R311,
decision D14, log entry 15). -/
def Obligations.ResetValues : Prop :=
  State.reset.pc = 0x0000#16 ∧ State.reset.S S7 = 0x0000#16 ∧ State.reset.halted = false

/-! ## What may change what -/

/-- Every instruction changes only what `touchedBy` names for it: its destination, the bytes it stores, the port it writes, the
event it records, and the registers of a trap entry where it can raise an exception (60_exceptions.md R278, R285, R288). -/
def Obligations.EveryInstructionChangesOnlyItsOwn : Prop :=
  ∀ (i : Instr) (s t : State), exec i s = .next t → OnlyChanges (touchedBy i s) s t

/-- An instruction that is no transfer and raises nothing goes on at `pcup`; one that may raise goes on there or at the
handler (10_state.md R24, 60_exceptions.md R278). -/
def Obligations.OnlyTransfersAndTrapsMoveThePc : Prop :=
  ∀ (i : Instr) (s t : State), isTransfer i = false → exec i s = .next t →
    if mayRaise i then t.pc = s.pc ∨ t.pc = s.S S5 else t.pc = s.pc

/-- BZ and BNZ cannot produce a misaligned PC (45_control_transfer.md R218). -/
def Obligations.BranchesKeepThePcEven : Prop :=
  ∀ (b : GReg) (n : Int) (s t : State), isOdd s.pc = false →
    exec (.bz b n) s = .next t ∨ exec (.bnz b n) s = .next t → isOdd t.pc = false

/-- A step changes S3 only for a misaligned fetch or access, to the odd address, or by WRS S3 (10_state.md R34). R34 gives S3
for data accesses only: that an odd fetch puts `pc` in S3 is a choice (60_exceptions.md R287, decision D9, log entry 17). -/
def Obligations.OnlyMisalignmentAndWrsChangeS3 : Prop :=
  ∀ s t : State, step s = .next t → t.S S3 ≠ s.S S3 →
    (isOdd s.pc = true ∧ t.S S3 = s.pc) ∨
    (∃ i ea, RunsAt s i ∧ wordAccess i s = some ea ∧ isOdd ea = true ∧ t.S S3 = ea) ∨
    (∃ a, RunsAt s (.wrs S3 a) ∧ t.S S3 = s.R a)

/-- A step changes S4, S5 or S6 only by WRS, to all 16 bits of the source (10_state.md R35, R36, R37). For S6, which the source
reserves, that it is plain storage is a choice (R37, decision D13, log entry 12). -/
def Obligations.OnlyWrsChangesS4S5S6 : Prop :=
  ∀ (s t : State) (x : SReg), x ∈ [(⟨4⟩ : SReg), ⟨5⟩, ⟨6⟩] → step s = .next t → t.S x ≠ s.S x →
    ∃ a, RunsAt s (.wrs x a) ∧ t.S x = s.R a

/-- A step changes PSW.V only by WRS S7 or by RETI, from S0 (10_state.md R41). -/
def Obligations.OnlyWrsAndRetiChangeV : Prop :=
  ∀ s t : State, step s = .next t → statusV (t.S S7) ≠ statusV (s.S S7) →
    (∃ a, RunsAt s (.wrs S7 a) ∧ t.S S7 = s.R a) ∨ (RunsAt s .reti ∧ t.S S7 = s.S S0)

/-! ## Taking an event and returning -/

/-- The trap entry does its seven steps and nothing else, for every event (60_exceptions.md R285). -/
def Obligations.TrapEntrySavesAndEnters : Prop :=
  ∀ (c : TrapCause) (ret : Word) (s : State), EntersHandler c ret s (trapEntry c ret s)

/-- A RETI right after the entry resumes at the saved address with the status word of before the event, I and V included,
whatever the event; S0 to S3 keep what the entry saved, and all else is as before the event (60_exceptions.md R285, R292). -/
def Obligations.RetiUndoesTheEntry : Prop :=
  ∀ (c : TrapCause) (ret : Word) (s : State),
    Completes (exec .reti (trapEntry c ret s)) (fun t => t.pc = ret ∧ t.S S7 = s.S S7 ∧ t.S S0 = s.S S7 ∧ t.S S1 = ret ∧
      t.S S2 = zextCode c.code ∧ t.S S3 = (trapEntry c ret s).S S3 ∧ OnlyChanges { ss := [S0, S1, S2, S3] } s t)

/-! ## Logic and integer arithmetic -/

/-- AND, OR, XOR and NOT: encoding, result bit by bit, and nothing else changed (40_arith_logic.md R121 to R124). -/
def Obligations.LogicResults : Prop :=
  ∀ (d a b : GReg) (s : State),
    encode (.and d a b) = 0b0000#4 ++ field3 d.num ++ field3 a.num ++ 0b000#3 ++ field3 b.num ∧
    Completes (exec (.and d a b) s) (fun t => (∀ k, (t.R d).getLsbD k = ((s.R a).getLsbD k && (s.R b).getLsbD k)) ∧
      t.pc = s.pc ∧ OnlyChanges { gs := [d] } s t) ∧
    encode (.or d a b) = 0b0000#4 ++ field3 d.num ++ field3 a.num ++ 0b001#3 ++ field3 b.num ∧
    Completes (exec (.or d a b) s) (fun t => (∀ k, (t.R d).getLsbD k = ((s.R a).getLsbD k || (s.R b).getLsbD k)) ∧
      t.pc = s.pc ∧ OnlyChanges { gs := [d] } s t) ∧
    encode (.xor d a b) = 0b0000#4 ++ field3 d.num ++ field3 a.num ++ 0b010#3 ++ field3 b.num ∧
    Completes (exec (.xor d a b) s) (fun t =>
      (∀ k, (t.R d).getLsbD k = ((s.R a).getLsbD k != (s.R b).getLsbD k)) ∧ t.pc = s.pc ∧
      OnlyChanges { gs := [d] } s t) ∧
    encode (.not d a) = 0b0000#4 ++ field3 d.num ++ field3 a.num ++ 0b011#3 ++ 0b000#3 ∧
    Completes (exec (.not d a) s) (fun t => (∀ k < 16, (t.R d).getLsbD k = !((s.R a).getLsbD k)) ∧ t.pc = s.pc ∧
      OnlyChanges { gs := [d] } s t)

/-- ADD and SUB: encoding, the result modulo 2^16, no exception and nothing else changed (40_arith_logic.md R125, R126). -/
def Obligations.AddSubResults : Prop :=
  ∀ (d a b : GReg) (s : State),
    encode (.add d a b) = 0b0000#4 ++ field3 d.num ++ field3 a.num ++ 0b100#3 ++ field3 b.num ∧
    Completes (exec (.add d a b) s) (fun t => (t.R d).toNat = ((s.R a).toNat + (s.R b).toNat) % 65536 ∧
      t.pc = s.pc ∧ OnlyChanges { gs := [d] } s t) ∧
    encode (.sub d a b) = 0b0000#4 ++ field3 d.num ++ field3 a.num ++ 0b101#3 ++ field3 b.num ∧
    Completes (exec (.sub d a b) s) (fun t => ((t.R d).toNat : Int) = ((s.R a).toNat - (s.R b).toNat : Int) % 65536 ∧
      t.pc = s.pc ∧ OnlyChanges { gs := [d] } s t)

/-- SHA and SHL: encoding, the amount from the five low bits of Rb in two's complement, zeros in on the left shift, the floor
of the integer (SHA) or of the natural (SHL) on the right shift (40_arith_logic.md R127, R128, R129). -/
def Obligations.ShiftResults : Prop :=
  ∀ (d a b : GReg) (s : State) (n : Int),
    n = (if (s.R b).toNat % 32 < 16 then ((s.R b).toNat % 32 : Int) else ((s.R b).toNat % 32 : Int) - 32) →
    encode (.sha d a b) = 0b0000#4 ++ field3 d.num ++ field3 a.num ++ 0b110#3 ++ field3 b.num ∧
    Completes (exec (.sha d a b) s) (fun t =>
      (if 0 ≤ n then (t.R d).toNat = (s.R a).toNat * 2 ^ n.toNat % 65536
        else (t.R d).toInt = Int.fdiv (s.R a).toInt (2 ^ (-n).toNat)) ∧
      t.pc = s.pc ∧ OnlyChanges { gs := [d] } s t) ∧
    encode (.shl d a b) = 0b0000#4 ++ field3 d.num ++ field3 a.num ++ 0b111#3 ++ field3 b.num ∧
    Completes (exec (.shl d a b) s) (fun t =>
      (if 0 ≤ n then (t.R d).toNat = (s.R a).toNat * 2 ^ n.toNat % 65536
        else (t.R d).toNat = (s.R a).toNat / 2 ^ (-n).toNat) ∧
      t.pc = s.pc ∧ OnlyChanges { gs := [d] } s t)

/-- MUL, MULH and MULHU: encoding, the low half and the two high halves of the exact product (40_arith_logic.md R132, R133,
R134). -/
def Obligations.MultiplyResults : Prop :=
  ∀ (d a b : GReg) (s : State),
    encode (.mul d a b) = 0b1000#4 ++ field3 d.num ++ field3 a.num ++ 0b000#3 ++ field3 b.num ∧
    Completes (exec (.mul d a b) s) (fun t => (t.R d).toNat = (s.R a).toNat * (s.R b).toNat % 65536 ∧
      t.pc = s.pc ∧ OnlyChanges { gs := [d] } s t) ∧
    encode (.mulh d a b) = 0b1000#4 ++ field3 d.num ++ field3 a.num ++ 0b001#3 ++ field3 b.num ∧
    Completes (exec (.mulh d a b) s) (fun t => (t.R d).toInt = Int.fdiv ((s.R a).toInt * (s.R b).toInt) 65536 ∧
      t.pc = s.pc ∧ OnlyChanges { gs := [d] } s t) ∧
    encode (.mulhu d a b) = 0b1000#4 ++ field3 d.num ++ field3 a.num ++ 0b010#3 ++ field3 b.num ∧
    Completes (exec (.mulhu d a b) s) (fun t => (t.R d).toNat = (s.R a).toNat * (s.R b).toNat / 65536 ∧
      t.pc = s.pc ∧ OnlyChanges { gs := [d] } s t)

/-- DIV and DIVU: encoding, and by a divisor that is not 0 the quotient truncated toward zero, said by its remainder, which is
smaller than the divisor in magnitude and has the sign of the dividend; -2^15 / -1 is left to `DivideByZeroRaises`
(30_encoding.md R100; 40_arith_logic.md R136, R137). -/
def Obligations.DivideResults : Prop :=
  ∀ (d a b : GReg) (s : State),
    encode (.div d a b) = 0b1000#4 ++ field3 d.num ++ field3 a.num ++ 0b100#3 ++ field3 b.num ∧
    (s.R b ≠ 0 → ¬ (s.R a = 0x8000#16 ∧ s.R b = 0xFFFF#16) → Completes (exec (.div d a b) s) (fun t =>
      |(s.R a).toInt - (t.R d).toInt * (s.R b).toInt| < |(s.R b).toInt| ∧
      0 ≤ ((s.R a).toInt - (t.R d).toInt * (s.R b).toInt) * (s.R a).toInt ∧
      t.pc = s.pc ∧ OnlyChanges { gs := [d] } s t)) ∧
    encode (.divu d a b) = 0b1000#4 ++ field3 d.num ++ field3 a.num ++ 0b101#3 ++ field3 b.num ∧
    (s.R b ≠ 0 → Completes (exec (.divu d a b) s) (fun t =>
      (t.R d).toNat * (s.R b).toNat ≤ (s.R a).toNat ∧ (s.R a).toNat < ((t.R d).toNat + 1) * (s.R b).toNat ∧
      t.pc = s.pc ∧ OnlyChanges { gs := [d] } s t))

/-- A zero divisor of DIV or DIVU enters the handler with code 4, whatever the dividend, R[d] not written; -2^15 / -1 raises
nothing and changes R[d] alone, to a value nothing is said about (60_exceptions.md R276; 40_arith_logic.md R136). That R[d] is
not written on the entry is a choice (decision D8, log entry 17), and so is the free value of -2^15 / -1 (decision D20, log
entry 1). -/
def Obligations.DivideByZeroRaises : Prop :=
  ∀ (d a b : GReg) (s : State),
    (s.R b = 0 →
      Completes (exec (.div d a b) s) (fun t => EntersHandler .intDivZero s.pc s t ∧ t.S S2 = 4 ∧ t.R d = s.R d) ∧
      Completes (exec (.divu d a b) s) (fun t => EntersHandler .intDivZero s.pc s t ∧ t.S S2 = 4 ∧ t.R d = s.R d)) ∧
    (s.R a = 0x8000#16 → s.R b = 0xFFFF#16 →
      Completes (exec (.div d a b) s) (fun t => t.pc = s.pc ∧ OnlyChanges { gs := [d] } s t))

/-- ADDI: encoding, and the sum with the sign-extended 6-bit field, modulo 2^16 (42_addi.md R180). -/
def Obligations.AddiResult : Prop :=
  ∀ (d a : GReg) (N : BitVec 6) (s : State),
    encode (.addi d a N.toInt) = 0b0010#4 ++ field3 d.num ++ field3 a.num ++ N ∧
    Completes (exec (.addi d a N.toInt) s) (fun t => t.R d = s.R a + N.signExtend 16 ∧ t.pc = s.pc ∧
      OnlyChanges { gs := [d] } s t)

/-- MOVI and MOVHI: encoding, the sign-extended byte, and the byte put above the old low byte (46_move_immediate.md R236,
R237). -/
def Obligations.MoveImmediateResults : Prop :=
  ∀ (d : GReg) (N : BitVec 8) (s : State),
    encode (.movi d N.toInt) = 0b0101#4 ++ field3 d.num ++ 0#1 ++ N ∧
    Completes (exec (.movi d N.toInt) s) (fun t => t.R d = N.signExtend 16 ∧ t.pc = s.pc ∧
      OnlyChanges { gs := [d] } s t) ∧
    encode (.movhi d N) = 0b0101#4 ++ field3 d.num ++ 1#1 ++ N ∧
    Completes (exec (.movhi d N) s) (fun t => t.R d = N ++ (s.R d).extractLsb' 0 8 ∧ t.pc = s.pc ∧
      OnlyChanges { gs := [d] } s t)

/-- MOVI of the low byte and then MOVHI of the high byte load any 16-bit constant (46_move_immediate.md R238). -/
def Obligations.MoviThenMovhiLoadsAnyConstant : Prop :=
  ∀ (d : GReg) (K : Word) (s : State), ∃ u,
    exec (.movi d (K.extractLsb' 0 8).toInt) s = .next u ∧
    Completes (exec (.movhi d (K.extractLsb' 8 8)) u) (fun t => t.R d = K ∧ OnlyChanges { gs := [d] } s t)

/-- The five integer comparisons: encoding, 1 or 0 in the destination by the mathematical values, nothing else changed
(43_compare.md R186 to R190). -/
def Obligations.IntegerCompareResults : Prop :=
  ∀ (d a b : GReg) (s : State),
    encode (.cmplt d a b) = 0b0001#4 ++ field3 d.num ++ field3 a.num ++ 0b000#3 ++ field3 b.num ∧
    Completes (exec (.cmplt d a b) s) (fun t => t.R d = (if (s.R a).toInt < (s.R b).toInt then 1 else 0) ∧
      t.pc = s.pc ∧ OnlyChanges { gs := [d] } s t) ∧
    encode (.cmple d a b) = 0b0001#4 ++ field3 d.num ++ field3 a.num ++ 0b001#3 ++ field3 b.num ∧
    Completes (exec (.cmple d a b) s) (fun t => t.R d = (if (s.R a).toInt ≤ (s.R b).toInt then 1 else 0) ∧
      t.pc = s.pc ∧ OnlyChanges { gs := [d] } s t) ∧
    encode (.cmpeq d a b) = 0b0001#4 ++ field3 d.num ++ field3 a.num ++ 0b011#3 ++ field3 b.num ∧
    Completes (exec (.cmpeq d a b) s) (fun t => t.R d = (if s.R a = s.R b then 1 else 0) ∧
      t.pc = s.pc ∧ OnlyChanges { gs := [d] } s t) ∧
    encode (.cmpltu d a b) = 0b0001#4 ++ field3 d.num ++ field3 a.num ++ 0b100#3 ++ field3 b.num ∧
    Completes (exec (.cmpltu d a b) s) (fun t => t.R d = (if (s.R a).toNat < (s.R b).toNat then 1 else 0) ∧
      t.pc = s.pc ∧ OnlyChanges { gs := [d] } s t) ∧
    encode (.cmpleu d a b) = 0b0001#4 ++ field3 d.num ++ field3 a.num ++ 0b101#3 ++ field3 b.num ∧
    Completes (exec (.cmpleu d a b) s) (fun t => t.R d = (if (s.R a).toNat ≤ (s.R b).toNat then 1 else 0) ∧
      t.pc = s.pc ∧ OnlyChanges { gs := [d] } s t)

/-! ## Floating point -/

/-- The three float comparisons: encoding, 1 or 0 by the real numbers the operands denote, the two zeros equal
(41_float.md R165 to R167). -/
def Obligations.FloatCompareResults : Prop :=
  ∀ (d : GReg) (a b : FReg) (s : State),
    encode (.cmpltf d a b) = 0b1001#4 ++ field3 d.num ++ field3 a.num ++ 0b100#3 ++ field3 b.num ∧
    Completes (exec (.cmpltf d a b) s) (fun t => t.R d = (if fval (s.F a) < fval (s.F b) then 1 else 0) ∧
      t.pc = s.pc ∧ OnlyChanges { gs := [d] } s t) ∧
    encode (.cmplef d a b) = 0b1001#4 ++ field3 d.num ++ field3 a.num ++ 0b101#3 ++ field3 b.num ∧
    Completes (exec (.cmplef d a b) s) (fun t => t.R d = (if fval (s.F a) ≤ fval (s.F b) then 1 else 0) ∧
      t.pc = s.pc ∧ OnlyChanges { gs := [d] } s t) ∧
    encode (.cmpeqf d a b) = 0b1001#4 ++ field3 d.num ++ field3 a.num ++ 0b111#3 ++ field3 b.num ∧
    Completes (exec (.cmpeqf d a b) s) (fun t => t.R d = (if fval (s.F a) = fval (s.F b) then 1 else 0) ∧
      t.pc = s.pc ∧ OnlyChanges { gs := [d] } s t)

/-- ADDF, SUBF, MULF and DIVF: encoding, and where the operation of FLOAT_ARITH gives a value, that value is written and nothing
else changes (30_encoding.md R100; 41_float.md R157; log entry 13 for the instance). -/
def Obligations.FloatValueIsWritten : Prop :=
  ∀ (d a b : FReg) (v : Word) (s : State),
    encode (.addf d a b) = 0b1001#4 ++ field3 d.num ++ field3 a.num ++ 0b000#3 ++ field3 b.num ∧
    (floatArith.fadd (s.F a) (s.F b) = .value v → Completes (exec (.addf d a b) s) (fun t => t.F d = v ∧
      t.pc = s.pc ∧ OnlyChanges { fs := [d] } s t)) ∧
    encode (.subf d a b) = 0b1001#4 ++ field3 d.num ++ field3 a.num ++ 0b001#3 ++ field3 b.num ∧
    (floatArith.fsub (s.F a) (s.F b) = .value v → Completes (exec (.subf d a b) s) (fun t => t.F d = v ∧
      t.pc = s.pc ∧ OnlyChanges { fs := [d] } s t)) ∧
    encode (.mulf d a b) = 0b1001#4 ++ field3 d.num ++ field3 a.num ++ 0b010#3 ++ field3 b.num ∧
    (floatArith.fmul (s.F a) (s.F b) = .value v → Completes (exec (.mulf d a b) s) (fun t => t.F d = v ∧
      t.pc = s.pc ∧ OnlyChanges { fs := [d] } s t)) ∧
    encode (.divf d a b) = 0b1001#4 ++ field3 d.num ++ field3 a.num ++ 0b011#3 ++ field3 b.num ∧
    (floatArith.fdiv (s.F a) (s.F b) = .value v → Completes (exec (.divf d a b) s) (fun t => t.F d = v ∧
      t.pc = s.pc ∧ OnlyChanges { fs := [d] } s t))

/-- An overflow enters the handler with code 2 when PSW.V = 1, F[d] not written; with V = 0 there is no entry, F[d] alone
changes, to a value nothing is said about, and execution goes on (60_exceptions.md R274; 41_float.md R157). That F[d] is not
written on the entry is a choice (decision D8, log entry 17), and so is the free value with V = 0 (decision D7, log entry 2);
which operands overflow is the instance's (log entry 13). -/
def Obligations.FloatOverflowIsMaskable : Prop :=
  ∀ (d a b : FReg) (s : State) (i : Instr),
    (i = .addf d a b ∧ floatArith.fadd (s.F a) (s.F b) = .overflow) ∨
    (i = .subf d a b ∧ floatArith.fsub (s.F a) (s.F b) = .overflow) ∨
    (i = .mulf d a b ∧ floatArith.fmul (s.F a) (s.F b) = .overflow) ∨
    (i = .divf d a b ∧ floatArith.fdiv (s.F a) (s.F b) = .overflow) →
    (statusV (s.S S7) = true → Completes (exec i s) (fun t =>
      EntersHandler .floatOverflow s.pc s t ∧ t.S S2 = 2 ∧ t.F d = s.F d)) ∧
    (statusV (s.S S7) = false → Completes (exec i s) (fun t => t.pc = s.pc ∧ OnlyChanges { fs := [d] } s t))

/-- DIVF by +0 or -0 enters the handler with code 3, whatever the dividend and whatever PSW.V, F[d] not written
(60_exceptions.md R275). That F[d] is not written is a choice (41_float.md R157, decision D8, log entry 17). -/
def Obligations.FloatDivideByZeroRaises : Prop :=
  ∀ (d a b : FReg) (s : State), (s.F b).extractLsb' 0 15 = 0 →
    Completes (exec (.divf d a b) s) (fun t => EntersHandler .floatDivZero s.pc s t ∧ t.S S2 = 3 ∧ t.F d = s.F d)

/-- Of the reference addition: it is commutative, a number and its negative give +0, and zero is neutral, bit for bit, to a
number that is not a zero (41_float.md R159, R161; decisions D4, D5, log entry 13). -/
def Obligations.FloatAdditionIdentities : Prop :=
  (∀ x y : Word, floatArith.fadd x y = floatArith.fadd y x) ∧
  (∀ x : Word, floatArith.fadd x (x ^^^ 0x8000#16) = .value 0x0000#16) ∧
  (∀ x z : Word, fIsZero x = false → fIsZero z = true → floatArith.fadd x z = .value x)

/-- The sum and the difference of the reference instance are exact truncations whenever the exponent fields differ by at most
1, or an operand is a zero (41_float.md R158; decision D4, log entry 13). -/
def Obligations.FloatSumTruncatesNearExponents : Prop :=
  ∀ x y : Word, fIsZero x = true ∨ fIsZero y = true ∨ (fExp x ≤ fExp y + 1 ∧ fExp y ≤ fExp x + 1) →
    Truncates (fval x + fval y) (floatArith.fadd x y) ∧ Truncates (fval x - fval y) (floatArith.fsub x y)

/-- The product of the reference instance is the exact product truncated to 10 significant bits, for all operands
(41_float.md R158, R162; decision D6, log entry 13). -/
def Obligations.FloatProductTruncates : Prop :=
  ∀ x y : Word, Truncates (fval x * fval y) (floatArith.fmul x y)

/-- The quotient of the reference instance by a number that is not a zero is the exact quotient truncated to 10 significant
bits (41_float.md R158, R163; decision D6, log entry 13). -/
def Obligations.FloatQuotientTruncates : Prop :=
  ∀ x y : Word, fIsZero y = false → Truncates (fval x / fval y) (floatArith.fdiv x y)

/-! ## Memory access -/

/-- LDB at any address, LD and LDF at an even base: encoding, effective address, the bytes read and where they go
(44_memory_access.md R198 to R200). -/
def Obligations.LoadResults : Prop :=
  ∀ (d a : GReg) (f : FReg) (N : BitVec 6) (s : State),
    (encode (.ldb d a N.toInt) = 0b1101#4 ++ field3 d.num ++ field3 a.num ++ N ∧
      Completes (exec (.ldb d a N.toInt) s) (fun t =>
        t.R d = (s.readByte (s.R a + N.signExtend 16)).signExtend 16 ∧ t.pc = s.pc ∧ OnlyChanges { gs := [d] } s t)) ∧
    (encode (.ld d a N.toInt) = 0b0011#4 ++ field3 d.num ++ field3 a.num ++ N ∧
      (isOdd (s.R a) = false → ∀ ea, ea = s.R a + (N.signExtend 16 <<< 1) →
        Completes (exec (.ld d a N.toInt) s) (fun t =>
          t.R d = s.readByte (ea + 1) ++ s.readByte ea ∧ t.pc = s.pc ∧ OnlyChanges { gs := [d] } s t))) ∧
    (encode (.ldf f a N.toInt) = 0b1011#4 ++ field3 f.num ++ field3 a.num ++ N ∧
      (isOdd (s.R a) = false → ∀ ea, ea = s.R a + (N.signExtend 16 <<< 1) →
        Completes (exec (.ldf f a N.toInt) s) (fun t =>
          t.F f = s.readByte (ea + 1) ++ s.readByte ea ∧ t.pc = s.pc ∧ OnlyChanges { fs := [f] } s t)))

/-- STB at any address, ST and STF at an even base: encoding, effective address, the bytes stored, every other byte and every
register as before (44_memory_access.md R201 to R203). -/
def Obligations.StoreResults : Prop :=
  ∀ (b a : GReg) (f : FReg) (N : BitVec 6) (s : State),
    (encode (.stb b a N.toInt) = 0b1110#4 ++ field3 b.num ++ field3 a.num ++ N ∧
      ∀ ea, ea = s.R a + N.signExtend 16 → Completes (exec (.stb b a N.toInt) s) (fun t =>
        t.readByte ea = (s.R b).extractLsb' 0 8 ∧ t.pc = s.pc ∧ OnlyChanges { bytes := [ea] } s t)) ∧
    (encode (.st b a N.toInt) = 0b0100#4 ++ field3 b.num ++ field3 a.num ++ N ∧
      (isOdd (s.R a) = false → ∀ ea, ea = s.R a + (N.signExtend 16 <<< 1) →
        Completes (exec (.st b a N.toInt) s) (fun t =>
          t.readByte ea = (s.R b).extractLsb' 0 8 ∧ t.readByte (ea + 1) = (s.R b).extractLsb' 8 8 ∧ t.pc = s.pc ∧
          OnlyChanges { bytes := [ea, ea + 1] } s t))) ∧
    (encode (.stf f a N.toInt) = 0b1100#4 ++ field3 f.num ++ field3 a.num ++ N ∧
      (isOdd (s.R a) = false → ∀ ea, ea = s.R a + (N.signExtend 16 <<< 1) →
        Completes (exec (.stf f a N.toInt) s) (fun t =>
          t.readByte ea = (s.F f).extractLsb' 0 8 ∧ t.readByte (ea + 1) = (s.F f).extractLsb' 8 8 ∧ t.pc = s.pc ∧
          OnlyChanges { bytes := [ea, ea + 1] } s t)))

/-- LD, ST, LDF and STF are misaligned exactly when the base register is odd, and then enter the handler with code 1 and the
effective address in S3, with no register written and no memory byte changed (44_memory_access.md R204; 60_exceptions.md R273).
That the exception writes nothing but the registers of the entry is a choice (R288, decision D8, log entry 17). -/
def Obligations.MisalignedAccessRaises : Prop :=
  ∀ (d a : GReg) (f : FReg) (n : Int) (s : State), isOdd (wordAddr (s.R a) n) = isOdd (s.R a) ∧
    (isOdd (s.R a) = true → ∀ i ∈ [Instr.ld d a n, .st d a n, .ldf f a n, .stf f a n],
      Completes (exec i s) (fun t => EntersHandler (.misaligned (wordAddr (s.R a) n)) s.pc s t ∧ t.S S2 = 1 ∧
        t.S S3 = wordAddr (s.R a) n))

/-- A load at an even address after a store there sees the bytes stored. After a ST or a STF, LD and LDF give the word and LDB
its two halves, the low byte at the lower address; after a STB at one of its two bytes, LD and LDF give the byte stored and the
old content of the other (20_memory.md R62, R82; 10_state.md R29). -/
def Obligations.LoadsSeeTheStoredWord : Prop :=
  ∀ (b a d e : GReg) (f g : FReg) (n : Int) (s : State) (ea : Word),
    isOdd (s.R a) = false → ea = wordAddr (s.R a) n →
    (∃ u, exec (.st b a n) s = .next u ∧
      Completes (exec (.ld d a n) u) (fun t => t.R d = s.R b) ∧
      Completes (exec (.ldf f a n) u) (fun t => t.F f = s.R b) ∧
      (s.R e = ea →
        Completes (exec (.ldb d e 0) u) (fun t => t.R d = ((s.R b).extractLsb' 0 8).signExtend 16) ∧
        Completes (exec (.ldb d e 1) u) (fun t => t.R d = ((s.R b).extractLsb' 8 8).signExtend 16))) ∧
    (∃ u, exec (.stf g a n) s = .next u ∧
      Completes (exec (.ld d a n) u) (fun t => t.R d = s.F g) ∧
      Completes (exec (.ldf f a n) u) (fun t => t.F f = s.F g) ∧
      (s.R e = ea →
        Completes (exec (.ldb d e 0) u) (fun t => t.R d = ((s.F g).extractLsb' 0 8).signExtend 16) ∧
        Completes (exec (.ldb d e 1) u) (fun t => t.R d = ((s.F g).extractLsb' 8 8).signExtend 16))) ∧
    (s.R e = ea →
      (∃ u, exec (.stb b e 0) s = .next u ∧
        Completes (exec (.ld d a n) u) (fun t => t.R d = s.readByte (ea + 1) ++ (s.R b).extractLsb' 0 8) ∧
        Completes (exec (.ldf f a n) u) (fun t => t.F f = s.readByte (ea + 1) ++ (s.R b).extractLsb' 0 8) ∧
        Completes (exec (.ldb d e 0) u) (fun t => t.R d = ((s.R b).extractLsb' 0 8).signExtend 16)) ∧
      (∃ u, exec (.stb b e 1) s = .next u ∧
        Completes (exec (.ld d a n) u) (fun t => t.R d = (s.R b).extractLsb' 0 8 ++ s.readByte ea) ∧
        Completes (exec (.ldf f a n) u) (fun t => t.F f = (s.R b).extractLsb' 0 8 ++ s.readByte ea) ∧
        Completes (exec (.ldb d e 1) u) (fun t => t.R d = ((s.R b).extractLsb' 0 8).signExtend 16)))

/-- A store to the address of the next instruction is what the next fetch reads (20_memory.md R79, decision D16, log entry
19). -/
def Obligations.StoreIsSeenByTheNextFetch : Prop :=
  ∀ (b a : GReg) (n : Int) (s : State), RunsAt s (.st b a n) → wordAddr (s.R a) n = s.pc + 2 →
    ∃ t, step s = .next t ∧ t.pc = s.pc + 2 ∧ t.readWord t.pc = s.R b

/-! ## Control transfer -/

/-- BZ and BNZ: encoding, the test on all 16 bits, and the target from `pcup` (45_control_transfer.md R216, R217, R218). -/
def Obligations.BranchResults : Prop :=
  ∀ (b : GReg) (N : BitVec 8) (s : State),
    encode (.bz b N.toInt) = 0b0110#4 ++ field3 b.num ++ 0#1 ++ N ∧
    Completes (exec (.bz b N.toInt) s) (fun t =>
      t.pc = (if s.R b = 0 then s.pc + (N.signExtend 16 <<< 1) else s.pc) ∧ OnlyChanges {} s t) ∧
    encode (.bnz b N.toInt) = 0b0110#4 ++ field3 b.num ++ 1#1 ++ N ∧
    Completes (exec (.bnz b N.toInt) s) (fun t =>
      t.pc = (if s.R b = 0 then s.pc else s.pc + (N.signExtend 16 <<< 1)) ∧ OnlyChanges {} s t)

/-- JZ, JNZ and JMP: encoding, and all 16 bits of Ra in the PC when the jump is taken, an odd value too
(45_control_transfer.md R221 to R223). -/
def Obligations.JumpResults : Prop :=
  ∀ (b a : GReg) (s : State),
    encode (.jz b a) = 0b1010#4 ++ field3 b.num ++ field3 a.num ++ 0b000000#6 ∧
    Completes (exec (.jz b a) s) (fun t => t.pc = (if s.R b = 0 then s.R a else s.pc) ∧ OnlyChanges {} s t) ∧
    encode (.jnz b a) = 0b1010#4 ++ field3 b.num ++ field3 a.num ++ 0b000001#6 ∧
    Completes (exec (.jnz b a) s) (fun t => t.pc = (if s.R b = 0 then s.pc else s.R a) ∧ OnlyChanges {} s t) ∧
    encode (.jmp a) = 0b1010#4 ++ 0b000#3 ++ field3 a.num ++ 0b000011#6 ∧
    Completes (exec (.jmp a) s) (fun t => t.pc = s.R a ∧ OnlyChanges {} s t)

/-- JAL: encoding, the old Ra in the PC and `pcup` in Rd, also when they are one register, which is a choice (30_encoding.md R102;
45_control_transfer.md R224, decision D8, log entry 17). -/
def Obligations.JalLinksAndJumps : Prop :=
  ∀ (d a : GReg) (s : State),
    encode (.jal d a) = 0b1010#4 ++ field3 d.num ++ field3 a.num ++ 0b000100#6 ∧
    Completes (exec (.jal d a) s) (fun t => t.R d = s.pc ∧ t.pc = s.R a ∧ OnlyChanges { gs := [d] } s t)

/-- The field the assembler codes for a label makes the branch go to the label, and is found whenever one in range does
(30_encoding.md R113, log entry 21). -/
def Obligations.BranchFieldReachesItsLabel : Prop :=
  ∀ (label branch : Word) (n : Int),
    asmBranch label branch = some n ↔ (-128 ≤ n ∧ n ≤ 127) ∧ branchTarget (branch + 2) n = label

/-! ## Input, output and special instructions -/

/-- IN: encoding; it puts what the environment presents at the port in Rd and records the event; it rests on the
defaults of IO_SHARED and of the platform's word on shared ports (47_io_and_special.md R241; 10_state.md R47, decision D17, log
entry 8). -/
def Obligations.InReadsThePresentedValue : Prop :=
  ∀ (d : GReg) (p : Port) (s : State),
    encode (.inp d p) = 0b0111#4 ++ field3 d.num ++ 0#1 ++ BitVec.ofNat 8 p.val ∧
    Completes (exec (.inp d p) s) (fun t => t.R d = s.env.inPorts[p] ∧ t.pc = s.pc ∧
      OnlyChanges { gs := [d], events := [.inRead p s.env.inPorts[p]] } s t)

/-- OUT: encoding; it writes all 16 bits of Rb to the output register of the port and records the event
(47_io_and_special.md R242). -/
def Obligations.OutWritesThePort : Prop :=
  ∀ (b : GReg) (p : Port) (s : State),
    encode (.out b p) = 0b0111#4 ++ field3 b.num ++ 1#1 ++ BitVec.ofNat 8 p.val ∧
    Completes (exec (.out b p) s) (fun t => t.outPort p = s.R b ∧ t.pc = s.pc ∧
      OnlyChanges { ports := [p], events := [.outWrite p (s.R b)] } s t)

/-- EI, DI and RETI: their words; EI and DI change bit 1 of S7 and no other bit; RETI restores all of S7 from S0 and the PC from
S1, S0 and S1 unchanged (47_io_and_special.md R244, R245, R246). -/
def Obligations.InterruptControlResults : Prop :=
  encode .ei = 0b1111000000100000#16 ∧ encode .di = 0b1111000000100001#16 ∧ encode .reti = 0b1111000000100100#16 ∧
  ∀ s : State,
    Completes (exec .ei s) (fun t => (∀ k, (t.S S7).getLsbD k = if k = 1 then true else (s.S S7).getLsbD k) ∧
      t.pc = s.pc ∧ OnlyChanges { ss := [S7] } s t) ∧
    Completes (exec .di s) (fun t => (∀ k, (t.S S7).getLsbD k = if k = 1 then false else (s.S S7).getLsbD k) ∧
      t.pc = s.pc ∧ OnlyChanges { ss := [S7] } s t) ∧
    Completes (exec .reti s) (fun t => t.S S7 = s.S S0 ∧ t.pc = s.S S1 ∧ OnlyChanges { ss := [S7] } s t)

/-- GETIID: encoding; it acknowledges, and with a request pending writes the identifier the device presents; with none it writes
a value nothing is said about (47_io_and_special.md R247, decision D12, log entries 3 and 4). -/
def Obligations.GetiidAcknowledges : Prop :=
  ∀ (d : GReg) (s : State),
    encode (.getiid d) = 0b1111#4 ++ field3 d.num ++ 0b000#3 ++ 0b101000#6 ∧
    Completes (exec (.getiid d) s) (fun t => (s.env.intReq = true → t.R d = s.env.iid) ∧ t.pc = s.pc ∧
      OnlyChanges { gs := [d], events := [.inta] } s t)

/-- RDS and WRS: encoding; RDS copies a special register to a general one; WRS writes one, of S2 the four low bits only
(30_encoding.md R103; 47_io_and_special.md R248, R249, decision D13, log entry 12). -/
def Obligations.SpecialRegisterMoves : Prop :=
  ∀ (g : GReg) (x : SReg) (s : State),
    encode (.rds g x) = 0b1111#4 ++ field3 g.num ++ field3 x.num ++ 0b101100#6 ∧
    Completes (exec (.rds g x) s) (fun t => t.R g = s.S x ∧ t.pc = s.pc ∧ OnlyChanges { gs := [g] } s t) ∧
    encode (.wrs x g) = 0b1111#4 ++ field3 x.num ++ field3 g.num ++ 0b110000#6 ∧
    Completes (exec (.wrs x g) s) (fun t =>
      t.S x = (if x = S2 then ((s.R g).extractLsb' 0 4).zeroExtend 16 else s.R g) ∧ t.pc = s.pc ∧
      OnlyChanges { ss := [x] } s t)

/-- HALT: its word is all ones, the machine is halted, `pc` stays `pcup` and nothing else changes
(47_io_and_special.md R261). -/
def Obligations.HaltStopsTheMachine : Prop :=
  encode .halt = 0xFFFF#16 ∧
  ∀ s : State, Completes (exec .halt s) (fun t => t.halted = true ∧ t.pc = s.pc ∧ OnlyChanges { halts := true } s t)
end

