-- ==== Sys2Proof/Laws/Decode.lean ====
section
/-! SUPPORT. The fields of an encoded word, read back: what `slice` gives of each format, and the register and displacement
fields in both directions. -/

namespace Sys2Proof

/-- A vector of 16 bits is known by its bits 0 to 15. -/
theorem word_ext {x y : Word} (h : ∀ i < 16, x.getLsbD i = y.getLsbD i) : x = y :=
  BitVec.eq_of_getLsbD_eq fun i hi => h i hi

variable (c : BitVec 4) (d a f b : BitVec 3) (e : BitVec 1) (n6 : BitVec 6) (n8 : BitVec 8)

theorem getLsbD_word3Reg (i : Nat) : (word3Reg c d a f b).getLsbD i =
    if i < 3 then b.getLsbD i else if i < 6 then f.getLsbD (i - 3) else if i < 9 then a.getLsbD (i - 6)
    else if i < 12 then d.getLsbD (i - 9) else c.getLsbD (i - 12) := by
  simp only [word3Reg, BitVec.getLsbD_append, Nat.sub_sub]
  by_cases h3 : i < 3
  · simp [h3]
  by_cases h6 : i < 6
  · simp [h3, h6, show i - 3 < 3 by omega]
  by_cases h9 : i < 9
  · simp [h3, h6, h9, show ¬ i - 3 < 3 by omega, show i - 6 < 3 by omega]
  by_cases h12 : i < 12
  · simp [h3, h6, h9, h12, show ¬ i - 3 < 3 by omega, show ¬ i - 6 < 3 by omega, show i - 9 < 3 by omega]
  · simp [h3, h6, h9, h12, show ¬ i - 3 < 3 by omega, show ¬ i - 6 < 3 by omega, show ¬ i - 9 < 3 by omega]

theorem getLsbD_word2Reg (i : Nat) : (word2Reg c d a n6).getLsbD i =
    if i < 6 then n6.getLsbD i else if i < 9 then a.getLsbD (i - 6)
    else if i < 12 then d.getLsbD (i - 9) else c.getLsbD (i - 12) := by
  simp only [word2Reg, BitVec.getLsbD_append, Nat.sub_sub]
  by_cases h6 : i < 6
  · simp [h6]
  by_cases h9 : i < 9
  · simp [h6, h9, show i - 6 < 3 by omega]
  by_cases h12 : i < 12
  · simp [h6, h9, h12, show ¬ i - 6 < 3 by omega, show i - 9 < 3 by omega]
  · simp [h6, h9, h12, show ¬ i - 6 < 3 by omega, show ¬ i - 9 < 3 by omega]

theorem getLsbD_word1Reg (i : Nat) : (word1Reg c d e n8).getLsbD i =
    if i < 8 then n8.getLsbD i else if i < 9 then e.getLsbD (i - 8)
    else if i < 12 then d.getLsbD (i - 9) else c.getLsbD (i - 12) := by
  simp only [word1Reg, BitVec.getLsbD_append, Nat.sub_sub]
  by_cases h8 : i < 8
  · simp [h8]
  by_cases h9 : i < 9
  · simp [h8, h9, show i - 8 < 1 by omega]
  by_cases h12 : i < 12
  · simp [h8, h9, h12, show ¬ i - 8 < 1 by omega, show i - 9 < 3 by omega]
  · simp [h8, h9, h12, show ¬ i - 8 < 1 by omega, show ¬ i - 9 < 3 by omega]

theorem getLsbD_slice (w : Word) (lo len i : Nat) :
    (slice w lo len).getLsbD i = (decide (i < len) && w.getLsbD (lo + i)) := by
  simp [slice, BitVec.getLsbD_extractLsb']

/-! ### Format 3-Reg -/

@[simp] theorem slice_word3Reg_op : slice (word3Reg c d a f b) 12 4 = c := by
  apply BitVec.eq_of_getLsbD_eq
  intro i hi
  rw [getLsbD_slice, getLsbD_word3Reg]
  simp [hi, show ¬ 12 + i < 3 by omega, show ¬ 12 + i < 6 by omega,
    show ¬ 12 + i < 9 by omega]

@[simp] theorem slice_word3Reg_hi : slice (word3Reg c d a f b) 9 3 = d := by
  apply BitVec.eq_of_getLsbD_eq
  intro i hi
  rw [getLsbD_slice, getLsbD_word3Reg]
  simp [hi, show ¬ 9 + i < 3 by omega, show ¬ 9 + i < 6 by omega,
    show 9 + i < 12 by omega]

@[simp] theorem slice_word3Reg_a : slice (word3Reg c d a f b) 6 3 = a := by
  apply BitVec.eq_of_getLsbD_eq
  intro i hi
  rw [getLsbD_slice, getLsbD_word3Reg]
  simp [hi, show ¬ 6 + i < 3 by omega, show 6 + i < 9 by omega]

@[simp] theorem slice_word3Reg_f : slice (word3Reg c d a f b) 3 3 = f := by
  apply BitVec.eq_of_getLsbD_eq
  intro i hi
  rw [getLsbD_slice, getLsbD_word3Reg]
  simp [hi, show 3 + i < 6 by omega]

@[simp] theorem slice_word3Reg_b : slice (word3Reg c d a f b) 0 3 = b := by
  apply BitVec.eq_of_getLsbD_eq
  intro i hi
  rw [getLsbD_slice, getLsbD_word3Reg]
  simp [hi]

/-! ### Format 2-Reg -/

@[simp] theorem slice_word2Reg_op : slice (word2Reg c d a n6) 12 4 = c := by
  apply BitVec.eq_of_getLsbD_eq
  intro i hi
  rw [getLsbD_slice, getLsbD_word2Reg]
  simp [hi, show ¬ 12 + i < 6 by omega, show ¬ 12 + i < 9 by omega]

@[simp] theorem slice_word2Reg_hi : slice (word2Reg c d a n6) 9 3 = d := by
  apply BitVec.eq_of_getLsbD_eq
  intro i hi
  rw [getLsbD_slice, getLsbD_word2Reg]
  simp [hi, show ¬ 9 + i < 6 by omega, show 9 + i < 12 by omega]

@[simp] theorem slice_word2Reg_a : slice (word2Reg c d a n6) 6 3 = a := by
  apply BitVec.eq_of_getLsbD_eq
  intro i hi
  rw [getLsbD_slice, getLsbD_word2Reg]
  simp [hi, show 6 + i < 9 by omega]

@[simp] theorem slice_word2Reg_n : slice (word2Reg c d a n6) 0 6 = n6 := by
  apply BitVec.eq_of_getLsbD_eq
  intro i hi
  rw [getLsbD_slice, getLsbD_word2Reg]
  simp [hi]

/-! ### Format 1-Reg -/

@[simp] theorem slice_word1Reg_op : slice (word1Reg c d e n8) 12 4 = c := by
  apply BitVec.eq_of_getLsbD_eq
  intro i hi
  rw [getLsbD_slice, getLsbD_word1Reg]
  simp [hi, show ¬ 12 + i < 8 by omega, show ¬ 12 + i < 9 by omega]

@[simp] theorem slice_word1Reg_hi : slice (word1Reg c d e n8) 9 3 = d := by
  apply BitVec.eq_of_getLsbD_eq
  intro i hi
  rw [getLsbD_slice, getLsbD_word1Reg]
  simp [hi, show ¬ 9 + i < 8 by omega, show 9 + i < 12 by omega]

@[simp] theorem slice_word1Reg_e : slice (word1Reg c d e n8) 8 1 = e := by
  apply BitVec.eq_of_getLsbD_eq
  intro i hi
  rw [getLsbD_slice, getLsbD_word1Reg]
  simp [hi, show 8 + i < 9 by omega]

@[simp] theorem slice_word1Reg_n : slice (word1Reg c d e n8) 0 8 = n8 := by
  apply BitVec.eq_of_getLsbD_eq
  intro i hi
  rw [getLsbD_slice, getLsbD_word1Reg]
  simp [hi]

/-! ### Registers and displacements -/

@[simp] theorem gregOf_field3 (r : GReg) : gregOf (field3 r.num) = r := rfl
@[simp] theorem fregOf_field3 (r : FReg) : fregOf (field3 r.num) = r := rfl
@[simp] theorem sregOf_field3 (r : SReg) : sregOf (field3 r.num) = r := rfl
@[simp] theorem field3_gregOf (x : BitVec 3) : field3 (gregOf x).num = x := rfl
@[simp] theorem field3_fregOf (x : BitVec 3) : field3 (fregOf x).num = x := rfl
@[simp] theorem field3_sregOf (x : BitVec 3) : field3 (sregOf x).num = x := rfl

theorem toInt_ofInt_of_fitsField6 {n : Int} (h : fitsField6 n = true) : (BitVec.ofInt 6 n).toInt = n := by
  simp only [fitsField6, Bool.and_eq_true, decide_eq_true_eq] at h
  rw [BitVec.toInt_ofInt]
  exact Int.bmod_eq_of_le (by simpa using h.1) (by omega)

theorem toInt_ofInt_of_fitsField8 {n : Int} (h : fitsField8 n = true) : (BitVec.ofInt 8 n).toInt = n := by
  simp only [fitsField8, Bool.and_eq_true, decide_eq_true_eq] at h
  rw [BitVec.toInt_ofInt]
  exact Int.bmod_eq_of_le (by simpa using h.1) (by omega)

theorem fitsField6_toInt (x : BitVec 6) : fitsField6 x.toInt = true := by revert x; decide

theorem fitsField8_toInt (x : BitVec 8) : fitsField8 x.toInt = true := by
  have h1 := BitVec.le_toInt x
  have h2 := BitVec.toInt_lt (x := x)
  simp only [fitsField8, Bool.and_eq_true, decide_eq_true_eq]
  omega

end Sys2Proof
end

