-- ==== Sys2Proof/Laws/State.lean ====
section
/-! SUPPORT. What each update of the state leaves as it is and what it changes, one lemma per observer per update, so that no
proof unfolds a record update. -/

namespace Sys2Proof.Machine

variable (s : State)

/-! ### setR -/

@[simp] theorem pc_setR (r : GReg) (v : Word) : (s.setR r v).pc = s.pc := rfl
@[simp] theorem F_setR (r : GReg) (v : Word) (f1 : FReg) : (s.setR r v).F f1 = s.F f1 := rfl
@[simp] theorem S_setR (r : GReg) (v : Word) (x1 : SReg) : (s.setR r v).S x1 = s.S x1 := rfl
@[simp] theorem mem_setR (r : GReg) (v : Word) : (s.setR r v).mem = s.mem := rfl
@[simp] theorem readByte_setR (r : GReg) (v : Word) (a1 : Word) : (s.setR r v).readByte a1 = s.readByte a1 := rfl
@[simp] theorem outPort_setR (r : GReg) (v : Word) (p1 : Port) : (s.setR r v).outPort p1 = s.outPort p1 := rfl
@[simp] theorem halted_setR (r : GReg) (v : Word) : (s.setR r v).halted = s.halted := rfl
@[simp] theorem env_setR (r : GReg) (v : Word) : (s.setR r v).env = s.env := rfl
@[simp] theorem history_setR (r : GReg) (v : Word) : (s.setR r v).history = s.history := rfl
@[simp] theorem script_setR (r : GReg) (v : Word) : (s.setR r v).script = s.script := rfl
@[simp] theorem tick_setR (r : GReg) (v : Word) : (s.setR r v).tick = s.tick := rfl

/-! ### setF -/

@[simp] theorem pc_setF (r : FReg) (v : Word) : (s.setF r v).pc = s.pc := rfl
@[simp] theorem R_setF (r : FReg) (v : Word) (r1 : GReg) : (s.setF r v).R r1 = s.R r1 := rfl
@[simp] theorem S_setF (r : FReg) (v : Word) (x1 : SReg) : (s.setF r v).S x1 = s.S x1 := rfl
@[simp] theorem mem_setF (r : FReg) (v : Word) : (s.setF r v).mem = s.mem := rfl
@[simp] theorem readByte_setF (r : FReg) (v : Word) (a1 : Word) : (s.setF r v).readByte a1 = s.readByte a1 := rfl
@[simp] theorem outPort_setF (r : FReg) (v : Word) (p1 : Port) : (s.setF r v).outPort p1 = s.outPort p1 := rfl
@[simp] theorem halted_setF (r : FReg) (v : Word) : (s.setF r v).halted = s.halted := rfl
@[simp] theorem env_setF (r : FReg) (v : Word) : (s.setF r v).env = s.env := rfl
@[simp] theorem history_setF (r : FReg) (v : Word) : (s.setF r v).history = s.history := rfl
@[simp] theorem script_setF (r : FReg) (v : Word) : (s.setF r v).script = s.script := rfl
@[simp] theorem tick_setF (r : FReg) (v : Word) : (s.setF r v).tick = s.tick := rfl

/-! ### setS -/

@[simp] theorem pc_setS (x : SReg) (v : Word) : (s.setS x v).pc = s.pc := rfl
@[simp] theorem R_setS (x : SReg) (v : Word) (r1 : GReg) : (s.setS x v).R r1 = s.R r1 := rfl
@[simp] theorem F_setS (x : SReg) (v : Word) (f1 : FReg) : (s.setS x v).F f1 = s.F f1 := rfl
@[simp] theorem mem_setS (x : SReg) (v : Word) : (s.setS x v).mem = s.mem := rfl
@[simp] theorem readByte_setS (x : SReg) (v : Word) (a1 : Word) : (s.setS x v).readByte a1 = s.readByte a1 := rfl
@[simp] theorem outPort_setS (x : SReg) (v : Word) (p1 : Port) : (s.setS x v).outPort p1 = s.outPort p1 := rfl
@[simp] theorem halted_setS (x : SReg) (v : Word) : (s.setS x v).halted = s.halted := rfl
@[simp] theorem env_setS (x : SReg) (v : Word) : (s.setS x v).env = s.env := rfl
@[simp] theorem history_setS (x : SReg) (v : Word) : (s.setS x v).history = s.history := rfl
@[simp] theorem script_setS (x : SReg) (v : Word) : (s.setS x v).script = s.script := rfl
@[simp] theorem tick_setS (x : SReg) (v : Word) : (s.setS x v).tick = s.tick := rfl

/-! ### setPc -/

@[simp] theorem R_setPc (w : Word) (r1 : GReg) : (s.setPc w).R r1 = s.R r1 := rfl
@[simp] theorem F_setPc (w : Word) (f1 : FReg) : (s.setPc w).F f1 = s.F f1 := rfl
@[simp] theorem S_setPc (w : Word) (x1 : SReg) : (s.setPc w).S x1 = s.S x1 := rfl
@[simp] theorem mem_setPc (w : Word) : (s.setPc w).mem = s.mem := rfl
@[simp] theorem readByte_setPc (w : Word) (a1 : Word) : (s.setPc w).readByte a1 = s.readByte a1 := rfl
@[simp] theorem outPort_setPc (w : Word) (p1 : Port) : (s.setPc w).outPort p1 = s.outPort p1 := rfl
@[simp] theorem halted_setPc (w : Word) : (s.setPc w).halted = s.halted := rfl
@[simp] theorem env_setPc (w : Word) : (s.setPc w).env = s.env := rfl
@[simp] theorem history_setPc (w : Word) : (s.setPc w).history = s.history := rfl
@[simp] theorem script_setPc (w : Word) : (s.setPc w).script = s.script := rfl
@[simp] theorem tick_setPc (w : Word) : (s.setPc w).tick = s.tick := rfl

/-! ### writeByte -/

@[simp] theorem pc_writeByte (a : Word) (v : Byte) : (s.writeByte a v).pc = s.pc := rfl
@[simp] theorem R_writeByte (a : Word) (v : Byte) (r1 : GReg) : (s.writeByte a v).R r1 = s.R r1 := rfl
@[simp] theorem F_writeByte (a : Word) (v : Byte) (f1 : FReg) : (s.writeByte a v).F f1 = s.F f1 := rfl
@[simp] theorem S_writeByte (a : Word) (v : Byte) (x1 : SReg) : (s.writeByte a v).S x1 = s.S x1 := rfl
@[simp] theorem outPort_writeByte (a : Word) (v : Byte) (p1 : Port) : (s.writeByte a v).outPort p1 = s.outPort p1 := rfl
@[simp] theorem halted_writeByte (a : Word) (v : Byte) : (s.writeByte a v).halted = s.halted := rfl
@[simp] theorem env_writeByte (a : Word) (v : Byte) : (s.writeByte a v).env = s.env := rfl
@[simp] theorem history_writeByte (a : Word) (v : Byte) : (s.writeByte a v).history = s.history := rfl
@[simp] theorem script_writeByte (a : Word) (v : Byte) : (s.writeByte a v).script = s.script := rfl
@[simp] theorem tick_writeByte (a : Word) (v : Byte) : (s.writeByte a v).tick = s.tick := rfl

/-! ### writeWord -/

@[simp] theorem pc_writeWord (a v : Word) : (s.writeWord a v).pc = s.pc := rfl
@[simp] theorem R_writeWord (a v : Word) (r1 : GReg) : (s.writeWord a v).R r1 = s.R r1 := rfl
@[simp] theorem F_writeWord (a v : Word) (f1 : FReg) : (s.writeWord a v).F f1 = s.F f1 := rfl
@[simp] theorem S_writeWord (a v : Word) (x1 : SReg) : (s.writeWord a v).S x1 = s.S x1 := rfl
@[simp] theorem outPort_writeWord (a v : Word) (p1 : Port) : (s.writeWord a v).outPort p1 = s.outPort p1 := rfl
@[simp] theorem halted_writeWord (a v : Word) : (s.writeWord a v).halted = s.halted := rfl
@[simp] theorem env_writeWord (a v : Word) : (s.writeWord a v).env = s.env := rfl
@[simp] theorem history_writeWord (a v : Word) : (s.writeWord a v).history = s.history := rfl
@[simp] theorem script_writeWord (a v : Word) : (s.writeWord a v).script = s.script := rfl
@[simp] theorem tick_writeWord (a v : Word) : (s.writeWord a v).tick = s.tick := rfl

/-! ### setOutPort -/

@[simp] theorem pc_setOutPort (p : Port) (v : Word) : (s.setOutPort p v).pc = s.pc := rfl
@[simp] theorem R_setOutPort (p : Port) (v : Word) (r1 : GReg) : (s.setOutPort p v).R r1 = s.R r1 := rfl
@[simp] theorem F_setOutPort (p : Port) (v : Word) (f1 : FReg) : (s.setOutPort p v).F f1 = s.F f1 := rfl
@[simp] theorem S_setOutPort (p : Port) (v : Word) (x1 : SReg) : (s.setOutPort p v).S x1 = s.S x1 := rfl
@[simp] theorem mem_setOutPort (p : Port) (v : Word) : (s.setOutPort p v).mem = s.mem := rfl
@[simp] theorem readByte_setOutPort (p : Port) (v : Word) (a1 : Word) : (s.setOutPort p v).readByte a1 = s.readByte a1 := rfl
@[simp] theorem halted_setOutPort (p : Port) (v : Word) : (s.setOutPort p v).halted = s.halted := rfl
@[simp] theorem env_setOutPort (p : Port) (v : Word) : (s.setOutPort p v).env = s.env := rfl
@[simp] theorem history_setOutPort (p : Port) (v : Word) : (s.setOutPort p v).history = s.history := rfl
@[simp] theorem script_setOutPort (p : Port) (v : Word) : (s.setOutPort p v).script = s.script := rfl
@[simp] theorem tick_setOutPort (p : Port) (v : Word) : (s.setOutPort p v).tick = s.tick := rfl

/-! ### record -/

@[simp] theorem pc_record (e : IoEvent) : (s.record e).pc = s.pc := rfl
@[simp] theorem R_record (e : IoEvent) (r1 : GReg) : (s.record e).R r1 = s.R r1 := rfl
@[simp] theorem F_record (e : IoEvent) (f1 : FReg) : (s.record e).F f1 = s.F f1 := rfl
@[simp] theorem S_record (e : IoEvent) (x1 : SReg) : (s.record e).S x1 = s.S x1 := rfl
@[simp] theorem mem_record (e : IoEvent) : (s.record e).mem = s.mem := rfl
@[simp] theorem readByte_record (e : IoEvent) (a1 : Word) : (s.record e).readByte a1 = s.readByte a1 := rfl
@[simp] theorem outPort_record (e : IoEvent) (p1 : Port) : (s.record e).outPort p1 = s.outPort p1 := rfl
@[simp] theorem halted_record (e : IoEvent) : (s.record e).halted = s.halted := rfl
@[simp] theorem env_record (e : IoEvent) : (s.record e).env = s.env := rfl
@[simp] theorem script_record (e : IoEvent) : (s.record e).script = s.script := rfl
@[simp] theorem tick_record (e : IoEvent) : (s.record e).tick = s.tick := rfl

/-! ### endStep, advancePc and the halted condition -/

@[simp] theorem pc_endStep : (endStep s).pc = s.pc := rfl
@[simp] theorem R_endStep (r1 : GReg) : (endStep s).R r1 = s.R r1 := rfl
@[simp] theorem F_endStep (f1 : FReg) : (endStep s).F f1 = s.F f1 := rfl
@[simp] theorem S_endStep (x1 : SReg) : (endStep s).S x1 = s.S x1 := rfl
@[simp] theorem mem_endStep : (endStep s).mem = s.mem := rfl
@[simp] theorem readByte_endStep (a1 : Word) : (endStep s).readByte a1 = s.readByte a1 := rfl
@[simp] theorem outPort_endStep (p1 : Port) : (endStep s).outPort p1 = s.outPort p1 := rfl
@[simp] theorem halted_endStep : (endStep s).halted = s.halted := rfl
@[simp] theorem history_endStep : (endStep s).history = s.history := rfl
@[simp] theorem env_endStep : (endStep s).env = nextEnv s := rfl
@[simp] theorem script_endStep : (endStep s).script = s.script.tail := rfl
@[simp] theorem tick_endStep : (endStep s).tick = s.tick + 1 := rfl

@[simp] theorem R_advancePc (r1 : GReg) : (advancePc s).R r1 = s.R r1 := rfl
@[simp] theorem F_advancePc (f1 : FReg) : (advancePc s).F f1 = s.F f1 := rfl
@[simp] theorem S_advancePc (x1 : SReg) : (advancePc s).S x1 = s.S x1 := rfl
@[simp] theorem mem_advancePc : (advancePc s).mem = s.mem := rfl
@[simp] theorem readByte_advancePc (a1 : Word) : (advancePc s).readByte a1 = s.readByte a1 := rfl
@[simp] theorem outPort_advancePc (p1 : Port) : (advancePc s).outPort p1 = s.outPort p1 := rfl
@[simp] theorem halted_advancePc : (advancePc s).halted = s.halted := rfl
@[simp] theorem env_advancePc : (advancePc s).env = s.env := rfl
@[simp] theorem history_advancePc : (advancePc s).history = s.history := rfl
@[simp] theorem script_advancePc : (advancePc s).script = s.script := rfl
@[simp] theorem tick_advancePc : (advancePc s).tick = s.tick := rfl
@[simp] theorem pc_advancePc : (advancePc s).pc = s.pc + 2 := rfl

@[simp] theorem pc_setHalted (h : Bool) :
    State.pc (State.mk s.pc s.gpr s.fpr s.spr s.mem s.outPorts h s.env s.history s.script s.tick) = s.pc := rfl
@[simp] theorem R_setHalted (h : Bool) (r1 : GReg) :
    State.R (State.mk s.pc s.gpr s.fpr s.spr s.mem s.outPorts h s.env s.history s.script s.tick) r1 = s.R r1 := rfl
@[simp] theorem F_setHalted (h : Bool) (f1 : FReg) :
    State.F (State.mk s.pc s.gpr s.fpr s.spr s.mem s.outPorts h s.env s.history s.script s.tick) f1 = s.F f1 := rfl
@[simp] theorem S_setHalted (h : Bool) (x1 : SReg) :
    State.S (State.mk s.pc s.gpr s.fpr s.spr s.mem s.outPorts h s.env s.history s.script s.tick) x1 = s.S x1 := rfl
@[simp] theorem mem_setHalted (h : Bool) :
    State.mem (State.mk s.pc s.gpr s.fpr s.spr s.mem s.outPorts h s.env s.history s.script s.tick) = s.mem := rfl
@[simp] theorem readByte_setHalted (h : Bool) (a1 : Word) :
    State.readByte (State.mk s.pc s.gpr s.fpr s.spr s.mem s.outPorts h s.env s.history s.script s.tick) a1 = s.readByte a1 := rfl
@[simp] theorem outPort_setHalted (h : Bool) (p1 : Port) :
    State.outPort (State.mk s.pc s.gpr s.fpr s.spr s.mem s.outPorts h s.env s.history s.script s.tick) p1 = s.outPort p1 := rfl
@[simp] theorem env_setHalted (h : Bool) :
    State.env (State.mk s.pc s.gpr s.fpr s.spr s.mem s.outPorts h s.env s.history s.script s.tick) = s.env := rfl
@[simp] theorem history_setHalted (h : Bool) :
    State.history (State.mk s.pc s.gpr s.fpr s.spr s.mem s.outPorts h s.env s.history s.script s.tick) = s.history := rfl
@[simp] theorem script_setHalted (h : Bool) :
    State.script (State.mk s.pc s.gpr s.fpr s.spr s.mem s.outPorts h s.env s.history s.script s.tick) = s.script := rfl
@[simp] theorem tick_setHalted (h : Bool) :
    State.tick (State.mk s.pc s.gpr s.fpr s.spr s.mem s.outPorts h s.env s.history s.script s.tick) = s.tick := rfl

/-! ### What an update writes -/

@[simp] theorem pc_setPc (w : Word) : (s.setPc w).pc = w := rfl
@[simp] theorem history_record (e : IoEvent) : (s.record e).history = s.history ++ [e] := rfl
@[simp] theorem mem_writeByte (a : Word) (v : Byte) : (s.writeByte a v).mem = s.mem.write a.toNat v := rfl

theorem GReg.num_ne {r d : GReg} (h : r ≠ d) : r.num.val ≠ d.num.val := by
  rcases r with ⟨r⟩; rcases d with ⟨d⟩
  intro e; exact h (congrArg GReg.mk (Fin.ext e))

theorem FReg.num_ne {r d : FReg} (h : r ≠ d) : r.num.val ≠ d.num.val := by
  rcases r with ⟨r⟩; rcases d with ⟨d⟩
  intro e; exact h (congrArg FReg.mk (Fin.ext e))

theorem SReg.num_ne {r d : SReg} (h : r ≠ d) : r.num.val ≠ d.num.val := by
  rcases r with ⟨r⟩; rcases d with ⟨d⟩
  intro e; exact h (congrArg SReg.mk (Fin.ext e))

@[simp] theorem R_setR_same (d : GReg) (v : Word) : (s.setR d v).R d = v := by
  simp [State.R, State.setR]

@[simp] theorem R_setR_other (r d : GReg) (v : Word) (h : r ≠ d) : (s.setR d v).R r = s.R r := by
  simp [State.R, State.setR, Ne.symm (GReg.num_ne h)]

@[simp] theorem F_setF_same (d : FReg) (v : Word) : (s.setF d v).F d = v := by
  simp [State.F, State.setF]

@[simp] theorem F_setF_other (r d : FReg) (v : Word) (h : r ≠ d) : (s.setF d v).F r = s.F r := by
  simp [State.F, State.setF, Ne.symm (FReg.num_ne h)]

@[simp] theorem S_setS_same (x : SReg) (v : Word) : (s.setS x v).S x = sregStored x v := by
  simp [State.S, State.setS]

@[simp] theorem S_setS_other (y x : SReg) (v : Word) (h : y ≠ x) : (s.setS x v).S y = s.S y := by
  simp [State.S, State.setS, Ne.symm (SReg.num_ne h)]

@[simp] theorem outPort_setOutPort_same (p : Port) (v : Word) : (s.setOutPort p v).outPort p = v := by
  simp [State.outPort, State.setOutPort]

@[simp] theorem outPort_setOutPort_other (q p : Port) (v : Word) (h : q ≠ p) :
    (s.setOutPort p v).outPort q = s.outPort q := by
  have : p.val ≠ q.val := fun e => h (Fin.ext e.symm)
  simp [State.outPort, State.setOutPort, this]

end Sys2Proof.Machine
end

