-- ==== Sys2Proof/Laws/Memory.lean ====
section
/-! SUPPORT. Memory: a read after a write, and the canonical form that every write keeps. -/

namespace Sys2Proof.Machine

theorem Memory.read_write_same (m : Memory) (a : Nat) (v : Byte) : (Memory.write m a v).read a = some v := by
  induction m with
  | nil => simp [Memory.write, Memory.read]
  | cons c m ih =>
    obtain ⟨b, w⟩ := c
    by_cases h1 : a < b
    · simp [Memory.write, Memory.read, h1]
    · by_cases h2 : a = b
      · simp [Memory.write, Memory.read, h2]
      · simp [Memory.write, Memory.read, h1, h2, ih]

theorem Memory.read_write_other (m : Memory) (a b : Nat) (v : Byte) (h : b ≠ a) :
    (Memory.write m a v).read b = Memory.read m b := by
  induction m with
  | nil => simp [Memory.write, Memory.read, h]
  | cons c m ih =>
    obtain ⟨k, w⟩ := c
    by_cases h1 : a < k
    · simp [Memory.write, Memory.read, h1, h]
    · by_cases h2 : a = k
      · subst h2
        simp [Memory.write, Memory.read, h]
      · by_cases h3 : b = k <;> simp [Memory.write, Memory.read, h1, h2, h3, ih]

theorem Memory.wfFrom_mono {lo hi : Nat} {m : Memory} (h : lo ≤ hi) (hm : Memory.wfFrom hi m = true) :
    Memory.wfFrom lo m = true := by
  cases m with
  | nil => rfl
  | cons c m =>
    obtain ⟨a, v⟩ := c
    simp only [Memory.wfFrom, Bool.and_eq_true, decide_eq_true_eq] at hm ⊢
    exact ⟨⟨le_trans h hm.1.1, hm.1.2⟩, hm.2⟩

theorem Memory.wfFrom_write (m : Memory) : ∀ (lo a : Nat) (v : Byte), lo ≤ a → a < 65536 →
    Memory.wfFrom lo m = true → Memory.wfFrom lo (Memory.write m a v) = true := by
  induction m with
  | nil => intro lo a v h1 h2 _; simp [Memory.write, Memory.wfFrom, h1, h2]
  | cons c m ih =>
    obtain ⟨b, w⟩ := c
    intro lo a v h1 h2 hm
    simp only [Memory.wfFrom, Bool.and_eq_true, decide_eq_true_eq] at hm
    obtain ⟨⟨hb, hb2⟩, hrest⟩ := hm
    by_cases hlt : a < b
    · have : a + 1 ≤ b := hlt
      simp [Memory.write, Memory.wfFrom, hlt, h1, h2, this, hb2, hrest]
    · by_cases heq : a = b
      · simp [Memory.write, Memory.wfFrom, heq, hb, hb2, hrest]
      · have hge : b + 1 ≤ a := by omega
        simp [Memory.write, Memory.wfFrom, hlt, heq, hb, hb2, ih (b + 1) a v hge h2 hrest]

/-- Every write at one of the 2^16 addresses keeps the canonical form. -/
theorem Memory.wf_write (m : Memory) (a : Word) (v : Byte) (h : m.wf = true) : (Memory.write m a.toNat v).wf = true :=
  Memory.wfFrom_write m 0 a.toNat v (Nat.zero_le _) a.isLt h

theorem Memory.wf_reset : State.reset.mem.wf = true := rfl

variable (s : State)

@[simp] theorem readByte_writeByte_same (a : Word) (v : Byte) : (s.writeByte a v).readByte a = v := by
  simp [State.readByte, State.writeByte, Memory.read_write_same]

@[simp] theorem readByte_writeByte_other (b a : Word) (v : Byte) (h : b ≠ a) :
    (s.writeByte a v).readByte b = s.readByte b := by
  have : b.toNat ≠ a.toNat := fun e => h (BitVec.eq_of_toNat_eq e)
  simp [State.readByte, State.writeByte, Memory.read_write_other _ _ _ _ this]

theorem wf_writeByte (a : Word) (v : Byte) (h : s.mem.wf = true) : (s.writeByte a v).mem.wf = true :=
  Memory.wf_write _ _ _ h

theorem wf_writeWord (a v : Word) (h : s.mem.wf = true) : (s.writeWord a v).mem.wf = true :=
  wf_writeByte _ _ _ (wf_writeByte _ _ _ h)

theorem addr_succ_ne (a : Word) : a + 1 ≠ a := by
  intro h
  exact absurd (add_eq_left.mp h) (by decide)

@[simp] theorem readByte_writeWord_low (a v : Word) : (s.writeWord a v).readByte a = lowByte v := by
  rw [State.writeWord, readByte_writeByte_other _ _ _ _ (Ne.symm (addr_succ_ne a)), readByte_writeByte_same]

@[simp] theorem readByte_writeWord_high (a v : Word) : (s.writeWord a v).readByte (a + 1) = highByte v := by
  rw [State.writeWord, readByte_writeByte_same]

theorem readByte_writeWord_other (b a v : Word) (h : b ∉ itemBytes a) : (s.writeWord a v).readByte b = s.readByte b := by
  simp only [itemBytes, List.mem_cons, List.not_mem_nil, or_false, not_or] at h
  rw [State.writeWord, readByte_writeByte_other _ _ _ _ h.2, readByte_writeByte_other _ _ _ _ h.1]

/-- The two halves of a word make the word (20_memory.md R62). -/
@[simp] theorem wordOfBytes_halves (w : Word) : wordOfBytes (lowByte w) (highByte w) = w := by
  apply BitVec.eq_of_getLsbD_eq
  intro i hi
  simp only [wordOfBytes, lowByte, highByte, BitVec.getLsbD_append, BitVec.getLsbD_extractLsb']
  by_cases h : i < 8
  · simp [h]
  · have h2 : i - 8 < 8 := by omega
    have h3 : 8 + (i - 8) = i := by omega
    simp [h, h2, h3]

@[simp] theorem lowByte_wordOfBytes (lo hi : Byte) : lowByte (wordOfBytes lo hi) = lo := by
  apply BitVec.eq_of_getLsbD_eq
  intro i h
  simp only [wordOfBytes, lowByte, BitVec.getLsbD_extractLsb', BitVec.getLsbD_append]
  simp [h]

@[simp] theorem highByte_wordOfBytes (lo hi : Byte) : highByte (wordOfBytes lo hi) = hi := by
  apply BitVec.eq_of_getLsbD_eq
  intro i h
  simp only [wordOfBytes, highByte, BitVec.getLsbD_extractLsb', BitVec.getLsbD_append]
  simp [h]

@[simp] theorem readWord_writeWord (a v : Word) : (s.writeWord a v).readWord a = v := by
  rw [State.readWord, readByte_writeWord_low, readByte_writeWord_high, wordOfBytes_halves]

end Sys2Proof.Machine
end

