-- ==== Sys2Proof/Laws/Ops.lean ====
section
/-! SUPPORT. One lemma for each shared operation that says once what it can do. -/

namespace Sys2Proof.Machine

variable (s : State)

/-! ### Outcomes -/

@[simp] theorem onNext_next (t : State) (f : State → State) : onNext (.next t) f = .next (f t) := rfl
@[simp] theorem onNext_fault (e : Fault) (f : State → State) : onNext (.fault e) f = .fault e := rfl
@[simp] theorem onNext_refused (e : Refusal) (f : State → State) : onNext (.refused e) f = .refused e := rfl

theorem onNext_eq_next {r : Result} {f : State → State} {t : State} (h : onNext r f = .next t) :
    ∃ u, r = .next u ∧ t = f u := by
  cases r with
  | next u => exact ⟨u, rfl, by simpa [onNext] using h.symm⟩
  | fault e => simp [onNext] at h
  | refused e => simp [onNext] at h

/-! ### Memory under the memory map -/

/-- With the default `MEM_MAP` every address holds read/write memory. -/
@[simp] theorem memMap_ram (a : Word) : memMap a = .ram := rfl

@[simp] theorem onRead_eq (bytes : List Word) (r : Result) : onRead bytes r = r := by
  simp [onRead]

@[simp] theorem onWrite_eq (bytes : List Word) (r : Result) : onWrite bytes r = r := by
  simp [onWrite]

theorem loadItem_eq (ea : Word) (put : State → Word → State) : loadItem ea put s =
    if isOdd ea then raise (.misaligned ea) s else .next (put s (s.readWord ea)) := by
  simp [loadItem]

theorem storeItem_eq (ea v : Word) : storeItem ea v s =
    if isOdd ea then raise (.misaligned ea) s else .next (s.writeWord ea v) := by
  simp [storeItem]

/-! ### Ports -/

/-- Everything an IN can return (10_state.md R47). -/
theorem inValue_cases (shared plain : Bool) (written presented : Word) :
    (shared = true ∧ plain = true ∧ inValue shared plain written presented = written) ∨
    ((shared = false ∨ plain = false) ∧ inValue shared plain written presented = presented) := by
  cases shared <;> cases plain <;> simp [inValue]

/-- With the default parameters of the ports, IN returns what the environment presents. -/
@[simp] theorem inPort_eq (p : Port) : s.inPort p = s.env.inPorts[p] := rfl

/-! ### Trap entry and return -/

@[simp] theorem sregStored_other (x : SReg) (v : Word) (h : x.num ≠ 2) : sregStored x v = v := by simp [sregStored, h]

theorem zextCode_masked : ∀ c : BitVec 4, zextCode c &&& 0x000F#16 = zextCode c := by decide

/-- An event code fits the four bits S2 has. -/
theorem sregStored_code (c : TrapCause) : sregStored S2 (zextCode c.code) = zextCode c.code := by
  simp [sregStored, S2, zextCode_masked]

@[simp] theorem trapEntry_R (c : TrapCause) (ret : Word) (r : GReg) : (trapEntry c ret s).R r = s.R r := by
  cases c <;> rfl
@[simp] theorem trapEntry_F (c : TrapCause) (ret : Word) (r : FReg) : (trapEntry c ret s).F r = s.F r := by
  cases c <;> rfl
@[simp] theorem trapEntry_mem (c : TrapCause) (ret : Word) : (trapEntry c ret s).mem = s.mem := by
  cases c <;> rfl
@[simp] theorem trapEntry_readByte (c : TrapCause) (ret a : Word) : (trapEntry c ret s).readByte a = s.readByte a := by
  cases c <;> rfl
@[simp] theorem trapEntry_outPort (c : TrapCause) (ret : Word) (p : Port) :
    (trapEntry c ret s).outPort p = s.outPort p := by cases c <;> rfl
@[simp] theorem trapEntry_halted (c : TrapCause) (ret : Word) : (trapEntry c ret s).halted = s.halted := by
  cases c <;> rfl
@[simp] theorem trapEntry_env (c : TrapCause) (ret : Word) : (trapEntry c ret s).env = s.env := by cases c <;> rfl
@[simp] theorem trapEntry_history (c : TrapCause) (ret : Word) : (trapEntry c ret s).history = s.history := by
  cases c <;> rfl
@[simp] theorem trapEntry_script (c : TrapCause) (ret : Word) : (trapEntry c ret s).script = s.script := by
  cases c <;> rfl
@[simp] theorem trapEntry_tick (c : TrapCause) (ret : Word) : (trapEntry c ret s).tick = s.tick := by cases c <;> rfl

/-- The special registers after each of the steps 1 to 3 and 4 to 6, in terms of those before. -/
theorem trapEntry_spr (c : TrapCause) (ret : Word) (x : SReg) : (trapEntry c ret s).S x =
    if x = S7 then inhibitInterrupts (s.S S7)
    else if x = S3 then (match c with | .misaligned addr => addr | _ => s.S S3)
    else if x = S2 then zextCode c.code
    else if x = S1 then ret
    else if x = S0 then s.S S7
    else s.S x := by
  have h : ∀ y : SReg, y = ⟨0⟩ ∨ y = ⟨1⟩ ∨ y = ⟨2⟩ ∨ y = ⟨3⟩ ∨ y = ⟨4⟩ ∨ y = ⟨5⟩ ∨ y = ⟨6⟩ ∨ y = ⟨7⟩ := by
    rintro ⟨n⟩; revert n; decide
  rcases h x with rfl | rfl | rfl | rfl | rfl | rfl | rfl | rfl <;> cases c <;>
    simp [trapEntry, State.saveAddress, S0, S1, S2, S3, S5, S7, sregStored, zextCode_masked]

@[simp] theorem trapEntry_pc (c : TrapCause) (ret : Word) : (trapEntry c ret s).pc = s.S S5 := by
  cases c <;> simp [trapEntry, State.saveAddress, S0, S1, S2, S3, S5, S7]

@[simp] theorem returnFromTrap_pc : (returnFromTrap s).pc = s.S S1 := rfl

theorem returnFromTrap_spr (x : SReg) : (returnFromTrap s).S x = if x = S7 then s.S S0 else s.S x := by
  by_cases h : x = S7
  · subst h; simp [returnFromTrap, S7]
  · simp [returnFromTrap, h]

/-! ### Floating point -/

/-- Everything the end of a floating-point operation can do (41_float.md R157). -/
theorem finishFloat_cases (d : FReg) (o : FloatOutcome) :
    (∃ v, o = .value v ∧ finishFloat d o s = .next (s.setF d v)) ∨
    (o = .divZero ∧ finishFloat d o s = raise .floatDivZero s) ∨
    (o = .overflow ∧ statusV (s.S S7) = true ∧ finishFloat d o s = raise .floatOverflow s) ∨
    (o = .overflow ∧ statusV (s.S S7) = false ∧
      finishFloat d o s = .next (s.setF d (Config.floatOverflowValue s.tick))) := by
  cases o with
  | value v => exact .inl ⟨v, rfl, rfl⟩
  | divZero => exact .inr (.inl ⟨rfl, rfl⟩)
  | overflow =>
    cases h : statusV (s.S S7)
    · exact .inr (.inr (.inr ⟨rfl, rfl, by simp [finishFloat, h]⟩))
    · exact .inr (.inr (.inl ⟨rfl, rfl, by simp [finishFloat, h]⟩))

end Sys2Proof.Machine
end

