-- ==== Sys2Proof/Laws/PerInstr.lean ====
section
/-! SUPPORT. The statements made instruction by instruction: the encoder's word of every instruction has the fixed bits of its
row of the opcode table. -/

namespace Sys2Proof.Laws.EncodeMatchesRow

/-- The word of `i` is `pattern` under `mask`, for every operand. -/
def Statement (i : Instr) : Prop := encode i &&& (rowOf i).mask = (rowOf i).pattern

theorem mask_3reg (c : BitVec 4) (d a f b : BitVec 3) : word3Reg c d a f b &&& 0xF038#16 = word3Reg c 0 0 f 0 := by
  apply word_ext
  intro i hi
  rw [BitVec.getLsbD_and, getLsbD_word3Reg, getLsbD_word3Reg]
  interval_cases i <;> simp

theorem mask_2reg (c : BitVec 4) (d a : BitVec 3) (n : BitVec 6) : word2Reg c d a n &&& 0xF000#16 = word2Reg c 0 0 0 := by
  apply word_ext
  intro i hi
  rw [BitVec.getLsbD_and, getLsbD_word2Reg, getLsbD_word2Reg]
  interval_cases i <;> simp

theorem mask_2reg_fn (c : BitVec 4) (d a : BitVec 3) (n : BitVec 6) : word2Reg c d a n &&& 0xF03F#16 = word2Reg c 0 0 n := by
  apply word_ext
  intro i hi
  rw [BitVec.getLsbD_and, getLsbD_word2Reg, getLsbD_word2Reg]
  interval_cases i <;> simp

theorem mask_1reg (c : BitVec 4) (d : BitVec 3) (e : BitVec 1) (n : BitVec 8) :
    word1Reg c d e n &&& 0xF100#16 = word1Reg c 0 e 0 := by
  apply word_ext
  intro i hi
  rw [BitVec.getLsbD_and, getLsbD_word1Reg, getLsbD_word1Reg]
  interval_cases i <;> simp

theorem and (d a b : GReg) : Statement (.and d a b) := mask_3reg _ _ _ _ _
theorem or (d a b : GReg) : Statement (.or d a b) := mask_3reg _ _ _ _ _
theorem xor (d a b : GReg) : Statement (.xor d a b) := mask_3reg _ _ _ _ _
theorem not (d a : GReg) : Statement (.not d a) := by
  rcases d with ⟨d⟩; rcases a with ⟨a⟩; revert d a; unfold Statement; decide
theorem add (d a b : GReg) : Statement (.add d a b) := mask_3reg _ _ _ _ _
theorem sub (d a b : GReg) : Statement (.sub d a b) := mask_3reg _ _ _ _ _
theorem sha (d a b : GReg) : Statement (.sha d a b) := mask_3reg _ _ _ _ _
theorem shl (d a b : GReg) : Statement (.shl d a b) := mask_3reg _ _ _ _ _
theorem cmplt (d a b : GReg) : Statement (.cmplt d a b) := mask_3reg _ _ _ _ _
theorem cmple (d a b : GReg) : Statement (.cmple d a b) := mask_3reg _ _ _ _ _
theorem cmpeq (d a b : GReg) : Statement (.cmpeq d a b) := mask_3reg _ _ _ _ _
theorem cmpltu (d a b : GReg) : Statement (.cmpltu d a b) := mask_3reg _ _ _ _ _
theorem cmpleu (d a b : GReg) : Statement (.cmpleu d a b) := mask_3reg _ _ _ _ _
theorem addi (d a : GReg) (n : Int) : Statement (.addi d a n) := mask_2reg _ _ _ _
theorem ld (d a : GReg) (n : Int) : Statement (.ld d a n) := mask_2reg _ _ _ _
theorem st (b a : GReg) (n : Int) : Statement (.st b a n) := mask_2reg _ _ _ _
theorem movi (d : GReg) (n : Int) : Statement (.movi d n) := mask_1reg _ _ _ _
theorem movhi (d : GReg) (n : BitVec 8) : Statement (.movhi d n) := mask_1reg _ _ _ _
theorem bz (b : GReg) (n : Int) : Statement (.bz b n) := mask_1reg _ _ _ _
theorem bnz (b : GReg) (n : Int) : Statement (.bnz b n) := mask_1reg _ _ _ _
theorem inp (d : GReg) (p : Port) : Statement (.inp d p) := mask_1reg _ _ _ _
theorem out (b : GReg) (p : Port) : Statement (.out b p) := mask_1reg _ _ _ _
theorem mul (d a b : GReg) : Statement (.mul d a b) := mask_3reg _ _ _ _ _
theorem mulh (d a b : GReg) : Statement (.mulh d a b) := mask_3reg _ _ _ _ _
theorem mulhu (d a b : GReg) : Statement (.mulhu d a b) := mask_3reg _ _ _ _ _
theorem div (d a b : GReg) : Statement (.div d a b) := mask_3reg _ _ _ _ _
theorem divu (d a b : GReg) : Statement (.divu d a b) := mask_3reg _ _ _ _ _
theorem addf (d a b : FReg) : Statement (.addf d a b) := mask_3reg _ _ _ _ _
theorem subf (d a b : FReg) : Statement (.subf d a b) := mask_3reg _ _ _ _ _
theorem mulf (d a b : FReg) : Statement (.mulf d a b) := mask_3reg _ _ _ _ _
theorem divf (d a b : FReg) : Statement (.divf d a b) := mask_3reg _ _ _ _ _
theorem cmpltf (d : GReg) (a b : FReg) : Statement (.cmpltf d a b) := mask_3reg _ _ _ _ _
theorem cmplef (d : GReg) (a b : FReg) : Statement (.cmplef d a b) := mask_3reg _ _ _ _ _
theorem cmpeqf (d : GReg) (a b : FReg) : Statement (.cmpeqf d a b) := mask_3reg _ _ _ _ _
theorem jz (b a : GReg) : Statement (.jz b a) := mask_2reg_fn _ _ _ _
theorem jnz (b a : GReg) : Statement (.jnz b a) := mask_2reg_fn _ _ _ _
theorem jmp (a : GReg) : Statement (.jmp a) := by
  rcases a with ⟨a⟩; revert a; unfold Statement; decide
theorem jal (d a : GReg) : Statement (.jal d a) := mask_2reg_fn _ _ _ _
theorem ldf (d : FReg) (a : GReg) (n : Int) : Statement (.ldf d a n) := mask_2reg _ _ _ _
theorem stf (b : FReg) (a : GReg) (n : Int) : Statement (.stf b a n) := mask_2reg _ _ _ _
theorem ldb (d a : GReg) (n : Int) : Statement (.ldb d a n) := mask_2reg _ _ _ _
theorem stb (b a : GReg) (n : Int) : Statement (.stb b a n) := mask_2reg _ _ _ _
theorem ei : Statement .ei := by unfold Statement; decide
theorem di : Statement .di := by unfold Statement; decide
theorem reti : Statement .reti := by unfold Statement; decide
theorem getiid (d : GReg) : Statement (.getiid d) := by
  rcases d with ⟨d⟩; revert d; unfold Statement; decide
theorem rds (d : GReg) (a : SReg) : Statement (.rds d a) := mask_2reg_fn _ _ _ _
theorem wrs (d : SReg) (a : GReg) : Statement (.wrs d a) := mask_2reg_fn _ _ _ _
theorem halt : Statement .halt := by unfold Statement; decide

end Sys2Proof.Laws.EncodeMatchesRow
end

