-- ==== Sys2Proof/Tests/Slice0.lean ====
section
/-! SUPPORT. Tests: the checks of WellFormed, a word of every constructor, one step of every instruction against 95_test_vectors.md
and the examples of the rules, the worked entries of 60_exceptions.md R296, and a state that meets the hypotheses of each
statement. -/

namespace Sys2Proof.Tests

open Sys2Proof Sys2Proof.Machine

/-! ## Helpers -/

/-- An environment that requests nothing and presents 0xBEEF at every port and 3 as the identifier. -/
def quiet : EnvInputs := { intReq := false, iid := 3, inPorts := Vector.replicate 256 0xBEEF#16 }

/-- A small state in which an instruction at 0x0010 runs: `pc` is its `pcup`. -/
def at12 : State := { State.reset with pc := 0x0012#16, env := quiet }

/-- `at12` with R2 and R3 set. -/
def ab (x y : Word) : State := (at12.setR ⟨2⟩ x).setR ⟨3⟩ y

/-- `at12` with F2 and F3 set. -/
def fab (x y : Word) : State := (at12.setF ⟨2⟩ x).setF ⟨3⟩ y

/-- The answer is a next state that passes the check. -/
def gives (r : Result) (p : State → Bool) : Bool :=
  match r with
  | .next t => p t
  | .fault _ => false
  | .refused _ => false

/-- A running state at address `a` that holds the word `w` there. -/
def holding (a w : Word) : State := ({ at12 with pc := a }).writeWord a w

/-! ## WellFormed -/

theorem test_wf_refuses_field6_high : WellFormed (.addi ⟨1⟩ ⟨2⟩ 32) = false := by decide
theorem test_wf_refuses_field6_low : WellFormed (.ld ⟨1⟩ ⟨2⟩ (-33)) = false := by decide
theorem test_wf_refuses_field8_high : WellFormed (.movi ⟨1⟩ 128) = false := by decide
theorem test_wf_refuses_field8_low : WellFormed (.bz ⟨1⟩ (-129)) = false := by decide
theorem test_wf_refuses_store : WellFormed (.st ⟨1⟩ ⟨2⟩ 32) = false ∧ WellFormed (.stf ⟨1⟩ ⟨2⟩ (-33)) = false ∧
    WellFormed (.stb ⟨1⟩ ⟨2⟩ 32) = false := by decide
theorem test_wf_refuses_other : WellFormed (.ldf ⟨1⟩ ⟨2⟩ 32) = false ∧ WellFormed (.ldb ⟨1⟩ ⟨2⟩ 32) = false ∧
    WellFormed (.bnz ⟨1⟩ 128) = false := by decide
theorem test_wf_accepts_bounds : WellFormed (.addi ⟨1⟩ ⟨2⟩ 31) = true ∧ WellFormed (.stf ⟨1⟩ ⟨2⟩ (-32)) = true ∧
    WellFormed (.movi ⟨1⟩ 127) = true ∧ WellFormed (.bnz ⟨1⟩ (-128)) = true := by decide

/-! ## Decoding: a word of every constructor, written out from 30_encoding.md R99 to R103 -/

theorem test_decode_logic :
    decode 0b0000001010000011#16 = .ok (.and ⟨1⟩ ⟨2⟩ ⟨3⟩) ∧ decode 0b0000001010001011#16 = .ok (.or ⟨1⟩ ⟨2⟩ ⟨3⟩) ∧
    decode 0b0000001010010011#16 = .ok (.xor ⟨1⟩ ⟨2⟩ ⟨3⟩) ∧ decode 0b0000001010011000#16 = .ok (.not ⟨1⟩ ⟨2⟩) ∧
    decode 0b0000001010100011#16 = .ok (.add ⟨1⟩ ⟨2⟩ ⟨3⟩) ∧ decode 0b0000001010101011#16 = .ok (.sub ⟨1⟩ ⟨2⟩ ⟨3⟩) ∧
    decode 0b0000001010110011#16 = .ok (.sha ⟨1⟩ ⟨2⟩ ⟨3⟩) ∧ decode 0b0000001010111011#16 = .ok (.shl ⟨1⟩ ⟨2⟩ ⟨3⟩) := by
  decide

theorem test_decode_compare :
    decode 0b0001001010000011#16 = .ok (.cmplt ⟨1⟩ ⟨2⟩ ⟨3⟩) ∧ decode 0b0001001010001011#16 = .ok (.cmple ⟨1⟩ ⟨2⟩ ⟨3⟩) ∧
    decode 0b0001001010011011#16 = .ok (.cmpeq ⟨1⟩ ⟨2⟩ ⟨3⟩) ∧
    decode 0b0001001010100011#16 = .ok (.cmpltu ⟨1⟩ ⟨2⟩ ⟨3⟩) ∧
    decode 0b0001001010101011#16 = .ok (.cmpleu ⟨1⟩ ⟨2⟩ ⟨3⟩) := by decide

theorem test_decode_immediate :
    decode 0b0010001010111111#16 = .ok (.addi ⟨1⟩ ⟨2⟩ (-1)) ∧ decode 0b0101100010101011#16 = .ok (.movi ⟨4⟩ (-85)) ∧
    decode 0b0101100101010110#16 = .ok (.movhi ⟨4⟩ 0x56#8) := by decide

theorem test_decode_memory :
    decode 0b0011001010000010#16 = .ok (.ld ⟨1⟩ ⟨2⟩ 2) ∧ decode 0b0100001010111111#16 = .ok (.st ⟨1⟩ ⟨2⟩ (-1)) ∧
    decode 0b1011001010011111#16 = .ok (.ldf ⟨1⟩ ⟨2⟩ 31) ∧ decode 0b1100001010100000#16 = .ok (.stf ⟨1⟩ ⟨2⟩ (-32)) ∧
    decode 0b1101001010111111#16 = .ok (.ldb ⟨1⟩ ⟨2⟩ (-1)) ∧ decode 0b1110001010000101#16 = .ok (.stb ⟨1⟩ ⟨2⟩ 5) := by
  decide

theorem test_decode_transfer :
    decode 0b0110001000000011#16 = .ok (.bz ⟨1⟩ 3) ∧ decode 0b0110001111111110#16 = .ok (.bnz ⟨1⟩ (-2)) ∧
    decode 0b1010001010000000#16 = .ok (.jz ⟨1⟩ ⟨2⟩) ∧ decode 0b1010001010000001#16 = .ok (.jnz ⟨1⟩ ⟨2⟩) ∧
    decode 0b1010000010000011#16 = .ok (.jmp ⟨2⟩) ∧ decode 0b1010001010000100#16 = .ok (.jal ⟨1⟩ ⟨2⟩) := by decide

theorem test_decode_io : decode 0b0111001000010000#16 = .ok (.inp ⟨1⟩ 16) ∧
    decode 0b0111001111111111#16 = .ok (.out ⟨1⟩ 255) := by decide

/-- The first word is the manual's own example of the fields (95_test_vectors.md E2). -/
theorem test_decode_muldiv :
    decode 0b1000110111010110#16 = .ok (.mulhu ⟨6⟩ ⟨7⟩ ⟨6⟩) ∧ decode 0b1000001010000011#16 = .ok (.mul ⟨1⟩ ⟨2⟩ ⟨3⟩) ∧
    decode 0b1000001010001011#16 = .ok (.mulh ⟨1⟩ ⟨2⟩ ⟨3⟩) ∧ decode 0b1000001010100011#16 = .ok (.div ⟨1⟩ ⟨2⟩ ⟨3⟩) ∧
    decode 0b1000001010101011#16 = .ok (.divu ⟨1⟩ ⟨2⟩ ⟨3⟩) := by decide

theorem test_decode_float :
    decode 0b1001001010000011#16 = .ok (.addf ⟨1⟩ ⟨2⟩ ⟨3⟩) ∧ decode 0b1001001010001011#16 = .ok (.subf ⟨1⟩ ⟨2⟩ ⟨3⟩) ∧
    decode 0b1001001010010011#16 = .ok (.mulf ⟨1⟩ ⟨2⟩ ⟨3⟩) ∧ decode 0b1001001010011011#16 = .ok (.divf ⟨1⟩ ⟨2⟩ ⟨3⟩) ∧
    decode 0b1001001010100011#16 = .ok (.cmpltf ⟨1⟩ ⟨2⟩ ⟨3⟩) ∧
    decode 0b1001001010101011#16 = .ok (.cmplef ⟨1⟩ ⟨2⟩ ⟨3⟩) ∧
    decode 0b1001001010111011#16 = .ok (.cmpeqf ⟨1⟩ ⟨2⟩ ⟨3⟩) := by decide

theorem test_decode_special :
    decode 0b1111000000100000#16 = .ok .ei ∧ decode 0b1111000000100001#16 = .ok .di ∧
    decode 0b1111000000100100#16 = .ok .reti ∧ decode 0b1111001000101000#16 = .ok (.getiid ⟨1⟩) ∧
    decode 0b1111001010101100#16 = .ok (.rds ⟨1⟩ ⟨2⟩) ∧ decode 0b1111101001110000#16 = .ok (.wrs ⟨5⟩ ⟨1⟩) ∧
    decode 0b1111111111111111#16 = .ok .halt := by decide

/-- The words of 95_test_vectors.md 2.1 that are no instructions. -/
theorem test_decode_reserved :
    decode 0x1090#16 = .error .reservedFunction ∧ decode 0x12B3#16 = .error .reservedFunction ∧
    decode 0x8018#16 = .error .reservedFunction ∧ decode 0x82B3#16 = .error .reservedFunction ∧
    decode 0x9030#16 = .error .reservedFunction ∧ decode 0xA002#16 = .error .reservedFunction ∧
    decode 0xA008#16 = .error .reservedFunction ∧ decode 0xF000#16 = .error .reservedFunction ∧
    decode 0xF022#16 = .error .reservedFunction ∧ decode 0xF7FF#16 = .error .fixedField ∧
    decode 0x0299#16 = .error .fixedField ∧ decode 0xA283#16 = .error .fixedField ∧
    decode 0xF220#16 = .error .fixedField ∧ decode 0xF268#16 = .error .fixedField := by decide

theorem test_decode_ignore_policy :
    decodeWith .ignore 0x0299#16 = .ok (.not ⟨1⟩ ⟨2⟩) ∧ decodeWith .ignore 0xA283#16 = .ok (.jmp ⟨2⟩) ∧
    decodeWith .ignore 0xF220#16 = .ok .ei ∧ decodeWith .ignore 0xF268#16 = .ok (.getiid ⟨1⟩) ∧
    decodeWith .ignore 0xF7FF#16 = .error .fixedField := by decide

theorem test_decode_bytes_little_endian : decodeBytes [0xAB#8, 0x58#8, 0x00#8] = .ok (.movi ⟨4⟩ (-85), [0x00#8]) ∧
    decodeBytes [0xAB#8] = .error .truncated ∧ decodeTableWord 16 0x5956 = some (.movhi ⟨4⟩ 0x56#8) := by decide

/-! ## Logic and arithmetic (95_test_vectors.md 2.2) -/

theorem test_and : gives (exec (.and ⟨1⟩ ⟨2⟩ ⟨3⟩) (ab 0xDBC6 0x614F)) (fun t => t.R ⟨1⟩ == 0x4146) = true := by decide
theorem test_or : gives (exec (.or ⟨1⟩ ⟨2⟩ ⟨3⟩) (ab 0xDBC6 0x614F)) (fun t => t.R ⟨1⟩ == 0xFBCF) = true := by decide
theorem test_xor : gives (exec (.xor ⟨1⟩ ⟨2⟩ ⟨3⟩) (ab 0xDBC6 0x614F)) (fun t => t.R ⟨1⟩ == 0xBA89) = true := by decide
theorem test_not : gives (exec (.not ⟨1⟩ ⟨2⟩) (ab 0xDBC6 0)) (fun t => t.R ⟨1⟩ == 0x2439) = true := by decide
theorem test_add_wraps : gives (exec (.add ⟨2⟩ ⟨2⟩ ⟨3⟩) (ab 0xFFFF 1)) (fun t => t.R ⟨2⟩ == 0) = true := by decide
theorem test_sub_borrows : gives (exec (.sub ⟨1⟩ ⟨2⟩ ⟨3⟩) (ab 5 7)) (fun t => t.R ⟨1⟩ == 0xFFFE) = true := by decide
theorem test_sha_right : gives (exec (.sha ⟨1⟩ ⟨2⟩ ⟨3⟩) (ab 0xF0F0 0x001C)) (fun t => t.R ⟨1⟩ == 0xFF0F) = true := by decide
theorem test_sha_left : gives (exec (.sha ⟨1⟩ ⟨2⟩ ⟨3⟩) (ab 0x00FF 0xFFE8)) (fun t => t.R ⟨1⟩ == 0xFF00) = true := by decide
theorem test_shl_right : gives (exec (.shl ⟨1⟩ ⟨2⟩ ⟨3⟩) (ab 0x8001 0x001F)) (fun t => t.R ⟨1⟩ == 0x4000) = true := by decide
theorem test_shl_by_16 : gives (exec (.shl ⟨1⟩ ⟨2⟩ ⟨3⟩) (ab 0x8001 0x0010)) (fun t => t.R ⟨1⟩ == 0) = true := by decide
theorem test_mul : gives (exec (.mul ⟨1⟩ ⟨2⟩ ⟨3⟩) (ab 3 0xFFFE)) (fun t => t.R ⟨1⟩ == 0xFFFA) = true := by decide
theorem test_mulh : gives (exec (.mulh ⟨1⟩ ⟨2⟩ ⟨3⟩) (ab 0x8000 0x7FFF)) (fun t => t.R ⟨1⟩ == 0xC000) = true := by decide
theorem test_mulhu : gives (exec (.mulhu ⟨1⟩ ⟨2⟩ ⟨3⟩) (ab 0x8000 0x7FFF)) (fun t => t.R ⟨1⟩ == 0x3FFF) = true := by decide
theorem test_div_truncates : gives (exec (.div ⟨1⟩ ⟨2⟩ ⟨3⟩) (ab 0xFFF9 2)) (fun t => t.R ⟨1⟩ == 0xFFFD) = true := by decide
theorem test_div_by_zero : gives (exec (.div ⟨1⟩ ⟨2⟩ ⟨3⟩) (ab 0x1234 0)) (fun t =>
    t.R ⟨1⟩ == resetWord && t.S S2 == 4 && t.S S1 == 0x0012 && t.pc == resetWord) = true := by decide
theorem test_divu : gives (exec (.divu ⟨1⟩ ⟨2⟩ ⟨3⟩) (ab 0xFFF9 2)) (fun t => t.R ⟨1⟩ == 0x7FFC) = true := by decide

/-! ## Comparisons and immediates (95_test_vectors.md 2.4, 2.5, 2.8) -/

theorem test_cmplt : gives (exec (.cmplt ⟨1⟩ ⟨2⟩ ⟨3⟩) (ab 0x8000 0x7FFF)) (fun t => t.R ⟨1⟩ == 1) = true := by decide
theorem test_cmple : gives (exec (.cmple ⟨1⟩ ⟨2⟩ ⟨3⟩) (ab 0x7FFF 0x8000)) (fun t => t.R ⟨1⟩ == 0) = true := by decide
theorem test_cmpeq : gives (exec (.cmpeq ⟨1⟩ ⟨2⟩ ⟨3⟩) (ab 0 0x8000)) (fun t => t.R ⟨1⟩ == 0) = true := by decide
theorem test_cmpltu : gives (exec (.cmpltu ⟨1⟩ ⟨2⟩ ⟨3⟩) (ab 0xFFFF 1)) (fun t => t.R ⟨1⟩ == 0) = true := by decide
theorem test_cmpleu : gives (exec (.cmpleu ⟨1⟩ ⟨2⟩ ⟨3⟩) (ab 0x7FFF 0x8000)) (fun t => t.R ⟨1⟩ == 1) = true := by decide
theorem test_addi : gives (exec (.addi ⟨1⟩ ⟨2⟩ (-32)) (ab 0 0)) (fun t => t.R ⟨1⟩ == 0xFFE0) = true := by decide
theorem test_movi : gives (exec (.movi ⟨4⟩ (-85)) at12) (fun t => t.R ⟨4⟩ == 0xFFAB) = true := by decide
theorem test_movhi : gives (exec (.movhi ⟨4⟩ 0x56) (at12.setR ⟨4⟩ 0xFFAB)) (fun t => t.R ⟨4⟩ == 0x56AB) = true := by decide

/-! ## Floating point (95_test_vectors.md 2.3) -/

theorem test_addf : gives (exec (.addf ⟨1⟩ ⟨2⟩ ⟨3⟩) (fab 0x3F00 0x4040)) (fun t => t.F ⟨1⟩ == 0x41C0) = true := by decide
theorem test_addf_vectors : refAdd 0x3E00 0x2A00 = .value 0x3E00 ∧ refAdd 0x3E00 0xBDFF = .value 0x2A00 ∧
    refAdd 0x4608 0xC608 = .value 0 ∧ refAdd 0x7FFF 0x6C00 = .overflow ∧ refAdd 0x0001 0x8002 = .value 0x8000 ∧
    refAdd 0x8000 0x8000 = .value 0x8000 ∧ refAdd 0x4100 0xC080 = .value 0x3C00 := by decide
theorem test_subf : gives (exec (.subf ⟨1⟩ ⟨2⟩ ⟨3⟩) (fab 0x3F00 0x4040)) (fun t => t.F ⟨1⟩ == 0xBD00) = true := by decide
theorem test_subf_vectors : refSub 0x3E00 0x2A00 = .value 0x3DFF ∧ refSub 0x3E00 0x2800 = .value 0x3E00 ∧
    refSub 0x7FFF 0x6C00 = .value 0x7FFE ∧ refSub 0x8000 0x0000 = .value 0x8000 ∧
    refSub 0x0001 0x8002 = .value 0x0201 := by decide
theorem test_mulf_overflow_trap : gives (exec (.mulf ⟨1⟩ ⟨2⟩ ⟨3⟩) ((fab 0x7E00 0x4000).setS S7 0x0006)) (fun t =>
    t.S S0 == 0x0006 && t.S S1 == 0x0012 && t.S S2 == 2 && t.S S7 == 0x0004 && t.F ⟨1⟩ == resetWord) = true := by decide
theorem test_mulf_vectors : refMul 0x3F00 0x4040 = .value 0x4160 ∧ refMul 0x7E00 0x3FFF = .value 0x7FFF ∧
    refMul 0x0200 0x3C00 = .value 0 ∧ refMul 0x0001 0x3E00 = .value 1 ∧ refMul 0x0000 0xC100 = .value 0x8000 ∧
    refMul 0x41FF 0x41FF = .value 0x45FE ∧ refMul 0x4155 0x4100 = .value 0x447F := by decide
theorem test_divf : gives (exec (.divf ⟨1⟩ ⟨2⟩ ⟨3⟩) (fab 0x3E00 0x4100)) (fun t => t.F ⟨1⟩ == 0x3AAA) = true := by decide
theorem test_divf_vectors : refDiv 0x3E00 0x0000 = .divZero ∧ refDiv 0x0000 0x8000 = .divZero ∧
    refDiv 0x7E00 0x3C00 = .overflow ∧ refDiv 0x0200 0x4200 = .value 0 ∧ refDiv 0x3E00 0x3FFF = .value 0x3C00 ∧
    refDiv 0x41FF 0x3E01 = .value 0x41FD := by decide
theorem test_cmpltf : gives (exec (.cmpltf ⟨1⟩ ⟨2⟩ ⟨3⟩) (fab 0xC608 0x4608)) (fun t => t.R ⟨1⟩ == 1) = true := by decide
theorem test_cmplef : gives (exec (.cmplef ⟨1⟩ ⟨2⟩ ⟨3⟩) (fab 0 0x8000)) (fun t => t.R ⟨1⟩ == 1) = true := by decide
theorem test_cmpeqf : gives (exec (.cmpeqf ⟨1⟩ ⟨2⟩ ⟨3⟩) (fab 0 0x8000)) (fun t => t.R ⟨1⟩ == 1) = true := by decide
/-- The manual's worked example of the format (95_test_vectors.md E1). -/
theorem test_fval_worked_example : fval 0xC608 = -(65 / 4) := by
  have h1 : fIsZero 0xC608 = false := by decide
  have h2 : fSign 0xC608 = true := by decide
  have h3 : fExp 0xC608 = 35 := by decide
  have h4 : fMant 0xC608 = 8 := by decide
  simp only [fval, h1, h2, h3, h4]
  norm_num

/-! ## Memory access (95_test_vectors.md 2.6 and the examples of 44_memory_access.md) -/

/-- The start of 95_test_vectors.md 2.6. -/
def mem26 : State := (((ab 0x0100 0).writeByte 0x0100 0x34).writeByte 0x0101 0x12).writeByte 0x0102 0x80

theorem test_ld : gives (exec (.ld ⟨1⟩ ⟨2⟩ 0) mem26) (fun t => t.R ⟨1⟩ == 0x1234) = true := by decide
theorem test_ld_misaligned : gives (exec (.ld ⟨1⟩ ⟨2⟩ 0) (ab 0x0101 0)) (fun t =>
    t.S S3 == 0x0101 && t.S S2 == 1 && t.R ⟨1⟩ == resetWord && t.S S1 == 0x0012) = true := by decide
theorem test_ldb_sign : gives (exec (.ldb ⟨1⟩ ⟨2⟩ 2) mem26) (fun t => t.R ⟨1⟩ == 0xFF80) = true := by decide
theorem test_ldb_wraps : gives (exec (.ldb ⟨1⟩ ⟨2⟩ 1) ((ab 0xFFFF 0).writeByte 0 0x7F)) (fun t => t.R ⟨1⟩ == 0x007F) = true := by
  decide
theorem test_ldf_reach : gives (exec (.ldf ⟨1⟩ ⟨2⟩ 31) ((ab 0x0200 0).writeWord 0x023E 0xC608)) (fun t =>
    t.F ⟨1⟩ == 0xC608) = true := by decide
theorem test_st : gives (exec (.st ⟨1⟩ ⟨2⟩ 1) (mem26.setR ⟨1⟩ 0xABCD)) (fun t =>
    t.readByte 0x0102 == 0xCD && t.readByte 0x0103 == 0xAB && t.readByte 0x0101 == 0x12) = true := by decide
theorem test_st_misaligned : gives (exec (.st ⟨1⟩ ⟨2⟩ (-1)) (ab 0x0101 0)) (fun t =>
    t.S S3 == 0x00FF && t.S S2 == 1 && t.mem == []) = true := by decide
theorem test_stb : gives (exec (.stb ⟨1⟩ ⟨2⟩ 5) ((ab 0x0100 0).setR ⟨1⟩ 0xABCD)) (fun t =>
    t.mem == [(0x0105, 0xCD#8)]) = true := by decide
theorem test_stf_reach : gives (exec (.stf ⟨1⟩ ⟨2⟩ (-32)) ((ab 0x0140 0).setF ⟨1⟩ 0x3E00)) (fun t =>
    t.mem == [(0x0100, 0x00#8), (0x0101, 0x3E#8)]) = true := by decide

/-! ## Control transfer (95_test_vectors.md 2.7) -/

theorem test_bz_taken_backwards : gives (exec (.bz ⟨1⟩ (-128)) (at12.setR ⟨1⟩ 0)) (fun t => t.pc == 0xFF12) = true := by decide
theorem test_bz_not_taken : gives (exec (.bz ⟨1⟩ 3) (at12.setR ⟨1⟩ 0x8000)) (fun t => t.pc == 0x0012) = true := by decide
theorem test_bnz_taken : gives (exec (.bnz ⟨1⟩ (-2)) (at12.setR ⟨1⟩ 1)) (fun t => t.pc == 0x000E) = true := by decide
theorem test_jz : gives (exec (.jz ⟨2⟩ ⟨3⟩) (ab 0 0x0200)) (fun t => t.pc == 0x0200) = true := by decide
theorem test_jnz : gives (exec (.jnz ⟨2⟩ ⟨3⟩) (ab 0 0x0200)) (fun t => t.pc == 0x0012) = true := by decide
theorem test_jmp_odd : gives (exec (.jmp ⟨2⟩) (ab 0x0201 0)) (fun t => t.pc == 0x0201) = true := by decide
theorem test_jal_same_register : gives (exec (.jal ⟨5⟩ ⟨5⟩) (at12.setR ⟨5⟩ 0x0300)) (fun t =>
    t.pc == 0x0300 && t.R ⟨5⟩ == 0x0012) = true := by decide
/-- `bnz R2, loop` of 95_test_vectors.md P1: from 0x0010 to 0x0008 is N = -5. -/
theorem test_asm_branch : asmBranch 0x0008 0x0010 = some (-5) ∧ asmBranch 0x0110 0x0010 = some 127 ∧
    asmBranch 0x0112 0x0010 = none ∧ asmBranch 0xFF12 0x0010 = some (-128) := by decide
theorem test_asm_displacement : asmWordDisp 62 = some 31 ∧ asmWordDisp 64 = none ∧ asmWordDisp 3 = none ∧
    asmByteDisp (-32) = some (-32) ∧ asmByteDisp 32 = none := by decide
theorem test_assembly : assembly (.st ⟨1⟩ ⟨2⟩ (-1)) = "ST -2(R2), R1" := by decide

/-! ## Input, output and special instructions (95_test_vectors.md 2.9) -/

theorem test_in : gives (exec (.inp ⟨1⟩ 16) at12) (fun t =>
    t.R ⟨1⟩ == 0xBEEF && t.history == [.inRead 16 0xBEEF]) = true := by decide
/-- The four cases of 10_state.md R47: what was written is 1, what is presented is 2. -/
theorem test_in_value : inValue true true 1 2 = 1 ∧ inValue true false 1 2 = 2 ∧ inValue false true 1 2 = 2 ∧
    inValue false false 1 2 = 2 := by decide
theorem test_out : gives (exec (.out ⟨2⟩ 255) (ab 0x1234 0)) (fun t =>
    t.outPort 255 == 0x1234 && t.history == [.outWrite 255 0x1234]) = true := by decide
theorem test_ei : gives (exec .ei (at12.setS S7 0x0004)) (fun t => t.S S7 == 0x0006) = true := by decide
theorem test_di : gives (exec .di (at12.setS S7 0x0007)) (fun t => t.S S7 == 0x0005) = true := by decide
theorem test_reti : gives (exec .reti ((at12.setS S0 0x0006).setS S1 0x0124)) (fun t =>
    t.S S7 == 0x0006 && t.pc == 0x0124 && t.S S0 == 0x0006) = true := by decide
theorem test_getiid : gives (exec (.getiid ⟨1⟩) { at12 with env := { quiet with intReq := true } }) (fun t =>
    t.R ⟨1⟩ == 3 && t.history == [.inta]) = true := by decide
theorem test_rds : gives (exec (.rds ⟨3⟩ S7) (at12.setS S7 0x0006)) (fun t => t.R ⟨3⟩ == 0x0006) = true := by decide
theorem test_wrs : gives (exec (.wrs S5 ⟨2⟩) (ab 0x0101 0)) (fun t => t.S S5 == 0x0101) = true := by decide
theorem test_wrs_s2_masks : gives (exec (.wrs S2 ⟨2⟩) (ab 0xFFF7 0)) (fun t => t.S S2 == 0x0007) = true := by decide
theorem test_halt : gives (exec .halt at12) (fun t => t.halted && t.pc == 0x0012) = true := by decide

/-! ## The step (60_exceptions.md R296) -/

theorem test_step_reset_runs_first_word : gives (step (State.reset.withFetchWord 16 0x58AB)) (fun t =>
    t.R ⟨4⟩ == 0xFFAB && t.pc == 2 && t.tick == 1) = true := by decide
theorem test_step_wraps_pc : gives (step (holding 0xFFFE 0x2000)) (fun t => t.pc == 0) = true := by decide
theorem test_entry_divide : gives (step (((((holding 0x0040 0x82A3).setR ⟨3⟩ 0).setS S7 0x0006)).setS S5 0x0100)) (fun t =>
    t.S S0 == 0x0006 && t.S S1 == 0x0042 && t.S S2 == 4 && t.S S3 == resetWord && t.S S7 == 0x0004 &&
    t.pc == 0x0100) = true := by decide
theorem test_entry_odd_fetch : gives (step { at12 with pc := 0x0301 }) (fun t =>
    t.S S1 == 0x0303 && t.S S2 == 1 && t.S S3 == 0x0301) = true := by decide
theorem test_entry_interrupt : gives (step { (at12.setS S7 0x0002) with pc := 0x0050, env := { quiet with intReq := true } })
    (fun t => t.S S0 == 0x0002 && t.S S1 == 0x0050 && t.S S2 == 0x000F && t.S S7 == 0 && t.pc == resetWord) = true := by
  decide
theorem test_interrupt_held_back : gives (step { (holding 0x0050 0x2000).setS S7 0x0004 with
    env := { quiet with intReq := true } }) (fun t => t.pc == 0x0052) = true := by decide
theorem test_entry_illegal : gives (step (holding 0x0050 0xF022)) (fun t => t.S S1 == 0x0052 && t.S S2 == 0) = true := by decide
theorem test_script_presents_inputs : gives (step { holding 0x0050 0x2000 with script := [{ quiet with iid := 9 }] })
    (fun t => t.env.iid == 9 && t.script == []) = true := by decide

/-! ## States that meet the hypotheses of the statements -/

theorem witness_roundtrip : WellFormed (.addi ⟨1⟩ ⟨2⟩ (-32)) = true ∧ WellFormed (.bz ⟨7⟩ 127) = true ∧
    WellFormed .halt = true := by decide
theorem witness_decoded_word : decode 0xFA70 = .ok (.wrs ⟨5⟩ ⟨1⟩) := by decide
theorem witness_rows : (0x0283#16 &&& (rowOf (.and ⟨1⟩ ⟨2⟩ ⟨3⟩)).mask = (rowOf (.and ⟨1⟩ ⟨2⟩ ⟨3⟩)).pattern) ∧
    (0x0283#16 &&& (rowOf (.and ⟨0⟩ ⟨0⟩ ⟨0⟩)).mask = (rowOf (.and ⟨0⟩ ⟨0⟩ ⟨0⟩)).pattern) := by decide
theorem witness_policy : ∀ c ∈ [(0b100000#6, Instr.ei), (0b100001#6, Instr.di), (0b100100#6, Instr.reti)],
    decodeWith .ignore (word2Reg 0b1111#4 1 0 c.1) = .ok c.2 := by decide
theorem witness_runs : RunsAt (holding 0x0050 0x2000) (.addi ⟨0⟩ ⟨0⟩ 0) :=
  ⟨⟨by decide, .inl (by decide)⟩, by decide, by decide⟩
theorem witness_runs_request_held : RunsAt { holding 0x0050 0x2000 with env := { quiet with intReq := true } }
    (.addi ⟨0⟩ ⟨0⟩ 0) := ⟨⟨by decide, .inl (by decide)⟩, by decide, by decide⟩
theorem witness_runs_permitted : RunsAt ((holding 0x0050 0x2000).setS S7 0x0002) (.addi ⟨0⟩ ⟨0⟩ 0) :=
  ⟨⟨by decide, .inr (by decide)⟩, by decide, by decide⟩
theorem witness_fetch_word_bounds : (0 : Nat) < 65536 ∧ (65535 : Nat) < 65536 := by decide
theorem witness_unused_special : AtInstruction (holding 0x0050 0xF022) ∧ isOdd (holding 0x0050 0xF022).pc = false ∧
    slice ((holding 0x0050 0xF022).readWord (holding 0x0050 0xF022).pc) 12 4 = 0b1111#4 ∧
    slice ((holding 0x0050 0xF022).readWord (holding 0x0050 0xF022).pc) 0 6 ∉
      [0b100000#6, 0b100001#6, 0b100100#6, 0b101000#6, 0b101100#6, 0b110000#6, 0b111111#6] :=
  ⟨⟨by decide, .inl (by decide)⟩, by decide, by decide, by decide⟩
theorem witness_undefined_word : AtInstruction (holding 0x0050 0x1090) ∧ isOdd (holding 0x0050 0x1090).pc = false ∧
    decode ((holding 0x0050 0x1090).readWord (holding 0x0050 0x1090).pc) = .error .reservedFunction :=
  ⟨⟨by decide, .inl (by decide)⟩, by decide, by decide⟩
theorem witness_fixed_field : AtInstruction (holding 0x0050 0x0299) ∧ isOdd (holding 0x0050 0x0299).pc = false ∧
    decode ((holding 0x0050 0x0299).readWord (holding 0x0050 0x0299).pc) = .error .fixedField :=
  ⟨⟨by decide, .inl (by decide)⟩, by decide, by decide⟩
theorem witness_odd_fetch : AtInstruction { at12 with pc := 0x0301 } ∧ isOdd (0x0301#16) = true :=
  ⟨⟨by decide, .inl (by decide)⟩, by decide⟩
/-- A state that requests and permits an interrupt. -/
def requesting : State := { at12.setS S7 0x0002 with env := { quiet with intReq := true } }
theorem witness_interrupt : requesting.halted = false ∧ requesting.env.intReq = true ∧
    statusI (requesting.S S7) = true := by decide
theorem witness_halted : ({ at12 with halted := true } : State).halted = true ∧ State.reset.halted = false := by decide
theorem witness_invariant : Inv (holding 0x0050 0x2000) ∧ ∃ t, step (holding 0x0050 0x2000) = .next t :=
  ⟨⟨by decide, by decide⟩, ⟨_, rfl⟩⟩
theorem witness_reached : Inv at12 ∧ Reaches at12 at12 := ⟨⟨by decide, by decide⟩, .refl _⟩
theorem witness_reached_one_step : ∃ t, Reaches (holding 0x0050 0x2000) t ∧ t.pc = 0x0052 :=
  ⟨_, .oneMore _ _ _ (.refl _) rfl, by decide⟩
theorem witness_exec : ∃ t, exec (.halt) at12 = .next t ∧ isTransfer .halt = false ∧ mayRaise .halt = false := ⟨_, rfl, rfl, rfl⟩
theorem witness_may_raise : ∃ t u, exec (.div ⟨1⟩ ⟨2⟩ ⟨3⟩) (ab 7 2) = .next t ∧ t.pc = (ab 7 2).pc ∧
    exec (.div ⟨1⟩ ⟨2⟩ ⟨3⟩) (ab 7 0) = .next u ∧ u.pc = (ab 7 0).S S5 ∧ mayRaise (.div ⟨1⟩ ⟨2⟩ ⟨3⟩) = true :=
  ⟨_, _, rfl, by decide, rfl, by decide, rfl⟩
theorem witness_branch_even : ∃ t u, isOdd at12.pc = false ∧ exec (.bz ⟨1⟩ 127) at12 = .next t ∧
    exec (.bnz ⟨1⟩ (-128)) at12 = .next u := ⟨_, _, by decide, rfl, rfl⟩
theorem witness_s3_fetch : ∃ t, step { at12 with pc := 0x0301 } = .next t ∧
    t.S S3 ≠ ({ at12 with pc := 0x0301 } : State).S S3 := ⟨_, rfl, by decide⟩
theorem witness_s3_access : ∃ t, step ((holding 0x0050 0x3280).setR ⟨2⟩ 0x0101) = .next t ∧
    t.S S3 ≠ ((holding 0x0050 0x3280).setR ⟨2⟩ 0x0101).S S3 := ⟨_, rfl, by decide⟩
theorem witness_s3_wrs : ∃ t, step ((holding 0x0050 0xF6B0).setR ⟨2⟩ 1) = .next t ∧
    t.S S3 ≠ ((holding 0x0050 0xF6B0).setR ⟨2⟩ 1).S S3 := ⟨_, rfl, by decide⟩
theorem witness_s4 : ∃ t, step ((holding 0x0050 0xF8B0).setR ⟨2⟩ 1) = .next t ∧
    t.S ⟨4⟩ ≠ ((holding 0x0050 0xF8B0).setR ⟨2⟩ 1).S ⟨4⟩ := ⟨_, rfl, by decide⟩
theorem witness_s5 : ∃ t, step ((holding 0x0050 0xFAB0).setR ⟨2⟩ 1) = .next t ∧
    t.S ⟨5⟩ ≠ ((holding 0x0050 0xFAB0).setR ⟨2⟩ 1).S ⟨5⟩ := ⟨_, rfl, by decide⟩
theorem witness_s6 : ∃ t, step ((holding 0x0050 0xFCB0).setR ⟨2⟩ 1) = .next t ∧
    t.S ⟨6⟩ ≠ ((holding 0x0050 0xFCB0).setR ⟨2⟩ 1).S ⟨6⟩ := ⟨_, rfl, by decide⟩
theorem witness_v_wrs : ∃ t, step ((holding 0x0050 0xFEB0).setR ⟨2⟩ 4) = .next t ∧
    statusV (t.S S7) ≠ statusV (((holding 0x0050 0xFEB0).setR ⟨2⟩ 4).S S7) := ⟨_, rfl, by decide⟩
theorem witness_v_reti : ∃ t, step ((holding 0x0050 0xF024).setS S0 4) = .next t ∧
    statusV (t.S S7) ≠ statusV (((holding 0x0050 0xF024).setS S0 4).S S7) := ⟨_, rfl, by decide⟩
theorem witness_shift_bounds : shiftAmount 0x000F = 15 ∧ shiftAmount 0x0010 = -16 ∧ shiftAmount 0xFFFF = -1 ∧
    shiftAmount 0x0020 = 0 := by decide
theorem witness_divide : (ab 7 2).R ⟨3⟩ ≠ 0 ∧ ¬ ((ab 7 2).R ⟨2⟩ = 0x8000#16 ∧ (ab 7 2).R ⟨3⟩ = 0xFFFF#16) ∧
    (ab 0x8000 0xFFFE).R ⟨3⟩ ≠ 0 := by decide
theorem witness_divide_raises : (ab 7 0).R ⟨3⟩ = 0 ∧ (ab 0x8000 0xFFFF).R ⟨2⟩ = 0x8000#16 ∧
    (ab 0x8000 0xFFFF).R ⟨3⟩ = 0xFFFF#16 := by decide
theorem witness_float_value : floatArith.fadd ((fab 0x3F00 0x4040).F ⟨2⟩) ((fab 0x3F00 0x4040).F ⟨3⟩) = .value 0x41C0 ∧
    floatArith.fsub ((fab 0x3F00 0x4040).F ⟨2⟩) ((fab 0x3F00 0x4040).F ⟨3⟩) = .value 0xBD00 ∧
    floatArith.fmul ((fab 0x3F00 0x4040).F ⟨2⟩) ((fab 0x3F00 0x4040).F ⟨3⟩) = .value 0x4160 ∧
    floatArith.fdiv ((fab 0x3E00 0x4100).F ⟨2⟩) ((fab 0x3E00 0x4100).F ⟨3⟩) = .value 0x3AAA := by decide
theorem witness_float_overflow : floatArith.fadd ((fab 0x7FFF 0x7FFF).F ⟨2⟩) ((fab 0x7FFF 0x7FFF).F ⟨3⟩) = .overflow ∧
    floatArith.fsub ((fab 0x7FFF 0xFFFF).F ⟨2⟩) ((fab 0x7FFF 0xFFFF).F ⟨3⟩) = .overflow ∧
    floatArith.fmul ((fab 0x7E00 0x4000).F ⟨2⟩) ((fab 0x7E00 0x4000).F ⟨3⟩) = .overflow ∧
    floatArith.fdiv ((fab 0x7E00 0x3C00).F ⟨2⟩) ((fab 0x7E00 0x3C00).F ⟨3⟩) = .overflow ∧
    statusV ((fab 0x7FFF 0x7FFF).S S7) = false ∧ statusV (((fab 0x7FFF 0x7FFF).setS S7 4).S S7) = true := by decide
theorem witness_float_zero_divisor : ((fab 0x3E00 0x8000).F ⟨3⟩).extractLsb' 0 15 = 0 ∧
    ((fab 0 0).F ⟨3⟩).extractLsb' 0 15 = 0 := by decide
theorem witness_float_identity : fIsZero 0x3E00 = false ∧ fIsZero 0x0000 = true ∧ fIsZero 0x8000 = true := by decide
theorem witness_float_near : fExp 0x3E00 ≤ fExp 0x4000 + 1 ∧ fExp 0x4000 ≤ fExp 0x3E00 + 1 := by decide
theorem witness_even_base : isOdd ((ab 0x0100 0).R ⟨2⟩) = false ∧ isOdd ((ab 0xFFFE 0).R ⟨2⟩) = false := by decide
theorem witness_odd_base : isOdd ((ab 0x0101 0).R ⟨2⟩) = true ∧ isOdd ((ab 0xFFFF 0).R ⟨2⟩) = true := by decide
theorem witness_load_after_store : isOdd ((ab 0x0100 0x0102).R ⟨2⟩) = false ∧
    (ab 0x0100 0x0102).R ⟨3⟩ = wordAddr ((ab 0x0100 0x0102).R ⟨2⟩) 1 := by decide
theorem witness_load_after_store_at_top : isOdd ((ab 0xFFFE 0xFFFE).R ⟨2⟩) = false ∧
    (ab 0xFFFE 0xFFFE).R ⟨3⟩ = wordAddr ((ab 0xFFFE 0xFFFE).R ⟨2⟩) 0 := by decide
theorem witness_store_next : RunsAt ((holding 0x0050 0x4280).setR ⟨2⟩ 0x0052) (.st ⟨1⟩ ⟨2⟩ 0) ∧
    wordAddr (((holding 0x0050 0x4280).setR ⟨2⟩ 0x0052).R ⟨2⟩) 0 = 0x0050#16 + 2 :=
  ⟨⟨⟨by decide, .inl (by decide)⟩, by decide, by decide⟩, by decide⟩
theorem witness_request : ({ at12 with env := { quiet with intReq := true } } : State).env.intReq = true := by decide

end Sys2Proof.Tests
end

/-! PROOFS of the family 10_state.md. Two classifications carry all of it: `ExecEffect` says once what the meaning of an
instruction can do to the special registers, the canonical memory and the PC, and `StepEffect` what a step can do. Each
obligation is a case split along one of them. -/

namespace Sys2Proof.Machine

/-! ## What the meaning of an instruction can do -/

/-- The instruction goes on without touching a special register, keeps memory canonical, and leaves `pc` at `pcup` unless it
is a transfer. -/
structure Ordinary (i : Instr) (s t : State) : Prop where
  sprs   : ∀ x, t.S x = s.S x
  memory : s.mem.wf = true → t.mem.wf = true
  pc     : isTransfer i = false → t.pc = s.pc

/-- The ways an instruction's meaning can end, told apart by how the special registers are written. -/
inductive ExecEffect (i : Instr) (s : State) : State → Prop where
  /-- no special register is written -/
  | ordinary (t : State) (h : Ordinary i s t) : ExecEffect i s t
  /-- an exception of the instruction itself; a misaligned one is for its own 16-bit access (60_exceptions.md R278) -/
  | raises (c : TrapCause) (hi : mayRaise i = true)
      (hc : ∀ ea, c = .misaligned ea → wordAccess i s = some ea ∧ isOdd ea = true) :
      ExecEffect i s (trapEntry c s.pc s)
  /-- EI or DI: S7 is written, its bit V as before -/
  | setsInterrupts (psw : Word) (hi : i = .ei ∨ i = .di) (hV : statusV psw = statusV (s.S S7)) :
      ExecEffect i s (s.setS S7 psw)
  /-- RETI -/
  | returns (hi : i = .reti) : ExecEffect i s (returnFromTrap s)
  /-- WRS -/
  | writesSpecial (x : SReg) (a : GReg) (hi : i = .wrs x a) : ExecEffect i s (s.setS x (s.R a))

theorem Ordinary.setR (i : Instr) (s : State) (d : GReg) (v : Word) : Ordinary i s (s.setR d v) :=
  ⟨fun _ => rfl, id, fun _ => rfl⟩

theorem Ordinary.setF (i : Instr) (s : State) (d : FReg) (v : Word) : Ordinary i s (s.setF d v) :=
  ⟨fun _ => rfl, id, fun _ => rfl⟩

theorem Ordinary.writeByte (i : Instr) (s : State) (a : Word) (v : Byte) : Ordinary i s (s.writeByte a v) :=
  ⟨fun _ => rfl, wf_writeByte s a v, fun _ => rfl⟩

theorem Ordinary.writeWord (i : Instr) (s : State) (a v : Word) : Ordinary i s (s.writeWord a v) :=
  ⟨fun _ => rfl, wf_writeWord s a v, fun _ => rfl⟩

/-- A transfer may do with the PC what it likes. -/
theorem Ordinary.setPc {i : Instr} {s t : State} (hi : isTransfer i = true) (h : Ordinary i s t) (target : Word) :
    Ordinary i s (t.setPc target) :=
  ⟨h.sprs, h.memory, fun hn => by simp [hi] at hn⟩

theorem completes_ordinary {i : Instr} {s t : State} (h : Ordinary i s t) :
    Completes (.next t) (ExecEffect i s) :=
  ⟨t, rfl, .ordinary t h⟩

theorem completes_setR (i : Instr) (s : State) (d : GReg) (v : Word) :
    Completes (.next (s.setR d v)) (ExecEffect i s) :=
  completes_ordinary (.setR i s d v)

/-- An exception without an address. -/
theorem completes_raise {i : Instr} {c : TrapCause} (s : State) (hi : mayRaise i = true)
    (hc : ∀ ea, c ≠ .misaligned ea) : Completes (raise c s) (ExecEffect i s) :=
  ⟨_, rfl, .raises c hi fun ea h => absurd h (hc ea)⟩

theorem completes_raise_misaligned {i : Instr} {s : State} {ea : Word} (hi : mayRaise i = true)
    (hacc : wordAccess i s = some ea) (hodd : isOdd ea = true) :
    Completes (raise (.misaligned ea) s) (ExecEffect i s) :=
  ⟨_, rfl, .raises _ hi fun _ h => TrapCause.misaligned.inj h ▸ ⟨hacc, hodd⟩⟩

theorem completes_finishFloat {i : Instr} (hi : mayRaise i = true) (d : FReg) (o : FloatOutcome) (s : State) :
    Completes (finishFloat d o s) (ExecEffect i s) := by
  obtain ⟨v, -, h⟩ | ⟨-, h⟩ | ⟨-, -, h⟩ | ⟨-, -, h⟩ := finishFloat_cases s d o <;> rw [h]
  · exact completes_ordinary (.setF i s d v)
  · exact completes_raise s hi nofun
  · exact completes_raise s hi nofun
  · exact completes_ordinary (.setF i s d _)

theorem completes_loadItem {i : Instr} {s : State} {ea : Word} {put : State → Word → State} (hi : mayRaise i = true)
    (hacc : wordAccess i s = some ea) (hput : ∀ v, Ordinary i s (put s v)) :
    Completes (loadItem ea put s) (ExecEffect i s) := by
  rw [loadItem_eq]
  split
  · exact completes_raise_misaligned hi hacc ‹_›
  · exact completes_ordinary (hput _)

theorem completes_storeItem {i : Instr} {s : State} {ea : Word} (hi : mayRaise i = true)
    (hacc : wordAccess i s = some ea) (v : Word) : Completes (storeItem ea v s) (ExecEffect i s) := by
  rw [storeItem_eq]
  split
  · exact completes_raise_misaligned hi hacc ‹_›
  · exact completes_ordinary (.writeWord i s ea v)

theorem completes_jumpIf {i : Instr} (hi : isTransfer i = true) (taken : Bool) (target : Word) (s : State) :
    Completes (jumpIf taken target s) (ExecEffect i s) := by
  have stays : Ordinary i s s := ⟨fun _ => rfl, id, fun _ => rfl⟩
  cases taken
  · exact completes_ordinary stays
  · exact completes_ordinary (stays.setPc hi target)

theorem completes_execDiv (d a b : GReg) (s : State) : Completes (execDiv d a b s) (ExecEffect (.div d a b) s) := by
  unfold execDiv
  split
  · exact completes_raise s rfl nofun
  · split <;> exact completes_setR _ s d _

theorem completes_execDivu (d a b : GReg) (s : State) :
    Completes (execDivu d a b s) (ExecEffect (.divu d a b) s) := by
  unfold execDivu
  split
  · exact completes_raise s rfl nofun
  · exact completes_setR _ s d _

@[simp] theorem statusV_permitInterrupts (psw : Word) : statusV (permitInterrupts psw) = statusV psw := by
  simp [statusV, permitInterrupts]

@[simp] theorem statusV_inhibitInterrupts (psw : Word) : statusV (inhibitInterrupts psw) = statusV psw := by
  simp [statusV, inhibitInterrupts]

/-- Every instruction answers a next state, with one of the effects of `ExecEffect`. -/
theorem exec_completes (i : Instr) (s : State) : Completes (exec i s) (ExecEffect i s) := by
  cases i with
  | and | or | xor | not | add | sub | sha | shl | cmplt | cmple | cmpeq | cmpltu | cmpleu | addi | movi | movhi
  | mul | mulh | mulhu | cmpltf | cmplef | cmpeqf | rds => exact completes_setR _ s _ _
  | div d a b => exact completes_execDiv d a b s
  | divu d a b => exact completes_execDivu d a b s
  | addf | subf | mulf | divf => exact completes_finishFloat rfl _ _ s
  | ld d => exact completes_loadItem rfl rfl (put := fun t v => t.setR d v) (.setR _ s d)
  | ldf d => exact completes_loadItem rfl rfl (put := fun t v => t.setF d v) (.setF _ s d)
  | st | stf => exact completes_storeItem rfl rfl _
  | ldb => exact completes_setR _ s _ _
  | stb => exact completes_ordinary (.writeByte _ s _ _)
  | bz | bnz | jz | jnz => exact completes_jumpIf rfl _ _ s
  | jmp a => exact completes_ordinary ⟨fun _ => rfl, id, nofun⟩
  | jal d a => exact completes_ordinary ((Ordinary.setR _ s d _).setPc rfl _)
  | inp | out | getiid | halt => exact completes_ordinary ⟨fun _ => rfl, id, fun _ => rfl⟩
  | ei => exact ⟨_, rfl, .setsInterrupts _ (.inl rfl) (statusV_permitInterrupts _)⟩
  | di => exact ⟨_, rfl, .setsInterrupts _ (.inr rfl) (statusV_inhibitInterrupts _)⟩
  | reti => exact ⟨_, rfl, .returns rfl⟩
  | wrs x a => exact ⟨_, rfl, .writesSpecial x a rfl⟩

theorem exec_effect {i : Instr} {s t : State} (h : exec i s = .next t) : ExecEffect i s t := by
  obtain ⟨u, hu, he⟩ := exec_completes i s
  obtain rfl : u = t := by simpa [hu] using h
  exact he

/-! ## What a step can do -/

/-- The ways a step can end, before the environment moves on, each with its guard (60_exceptions.md R281). -/
inductive StepEffect (s : State) : State → Prop where
  /-- the interrupt is taken before the fetch -/
  | interrupt (h : interruptTaken s = true) : StepEffect s (trapEntry .interrupt s.pc s)
  /-- the fetch is misaligned -/
  | oddFetch (h : AtInstruction s) (hodd : isOdd s.pc = true) :
      StepEffect s (trapEntry (.misaligned s.pc) (s.pc + 2) (advancePc s))
  /-- the fetched word is no instruction -/
  | undefinedWord (h : AtInstruction s) (heven : isOdd s.pc = false) (r : DecodeReject)
      (hdec : decode (s.readWord s.pc) = .error r) :
      StepEffect s (trapEntry .illegalInstruction (s.pc + 2) (advancePc s))
  /-- the fetched word is an instruction -/
  | runs (i : Instr) (u : State) (h : RunsAt s i) (hexec : exec i (advancePc s) = .next u) : StepEffect s u

theorem step_of_halted {s : State} (h : s.halted = true) : step s = .fault .halted := by
  simp [step, machineStep, h, haltedStep, haltBehaviour]

theorem step_of_interruptTaken {s : State} (hrun : s.halted = false) (h : interruptTaken s = true) :
    step s = .next (endStep (trapEntry .interrupt s.pc s)) := by
  simp [step, machineStep, hrun, h]

theorem atInstruction_iff (s : State) : AtInstruction s ↔ s.halted = false ∧ interruptTaken s = false := by
  simp only [AtInstruction, interruptTaken, Bool.and_eq_false_iff]

theorem step_of_atInstruction {s : State} (h : AtInstruction s) : step s = onNext (instructionStep s) endStep := by
  obtain ⟨hrun, hint⟩ := (atInstruction_iff s).mp h
  simp [step, machineStep, hrun, hint]

theorem instructionStep_of_odd {s : State} (h : isOdd s.pc = true) :
    instructionStep s = raise (.misaligned s.pc) (advancePc s) := by
  simp [instructionStep, h]

theorem instructionStep_of_even {s : State} (h : isOdd s.pc = false) :
    instructionStep s = runWord (s.readWord s.pc) s := by
  simp [instructionStep, h]

theorem runWord_of_decode_ok {w : Word} {i : Instr} (h : decode w = .ok i) (s : State) :
    runWord w s = exec i (advancePc s) := by
  simp [runWord, h]

theorem runWord_of_decode_error {w : Word} {r : DecodeReject} (h : decode w = .error r) (s : State) :
    runWord w s = raise .illegalInstruction (advancePc s) := by
  simp [runWord, h]

theorem instructionStep_completes {s : State} (h : AtInstruction s) :
    Completes (instructionStep s) (StepEffect s) := by
  cases hodd : isOdd s.pc with
  | true => exact ⟨_, instructionStep_of_odd hodd, .oddFetch h hodd⟩
  | false =>
    rw [instructionStep_of_even hodd]
    cases hdec : decode (s.readWord s.pc) with
    | error r => exact ⟨_, runWord_of_decode_error hdec s, .undefinedWord h hodd r hdec⟩
    | ok i =>
      obtain ⟨u, hu, -⟩ := exec_completes i (advancePc s)
      exact ⟨u, (runWord_of_decode_ok hdec s).trans hu, .runs i u ⟨h, hodd, hdec⟩ hu⟩

/-- A machine that HALT has not stopped always answers a next state, with one of the effects of `StepEffect`. -/
theorem step_of_running {s : State} (hrun : s.halted = false) :
    ∃ u, step s = .next (endStep u) ∧ StepEffect s u := by
  cases hint : interruptTaken s with
  | true => exact ⟨_, step_of_interruptTaken hrun hint, .interrupt hint⟩
  | false =>
    have hat : AtInstruction s := (atInstruction_iff s).mpr ⟨hrun, hint⟩
    obtain ⟨u, hu, he⟩ := instructionStep_completes hat
    exact ⟨u, by rw [step_of_atInstruction hat, hu, onNext_next], he⟩

theorem step_effect {s t : State} (h : step s = .next t) : ∃ u, t = endStep u ∧ StepEffect s u := by
  cases hrun : s.halted with
  | true => simp [step_of_halted hrun] at h
  | false =>
    obtain ⟨u, hu, he⟩ := step_of_running hrun
    exact ⟨u, by simpa [hu] using h.symm, he⟩

/-! ## The invariant -/

/-- Whatever is written to S2, its bits 15 to 4 stay 0 (10_state.md R33). -/
theorem sregStored_S2_high (v : Word) : sregStored S2 v &&& 0xFFF0#16 = 0 := by
  simp [sregStored, S2, BitVec.and_assoc]

theorem Inv.setS {s : State} (h : Inv s) (x : SReg) (v : Word) : Inv (s.setS x v) := by
  obtain ⟨hmem, hS2⟩ := h
  refine ⟨hmem, ?_⟩
  by_cases hx : S2 = x
  · subst hx; rw [S_setS_same]; exact sregStored_S2_high v
  · rw [S_setS_other s S2 x v hx]; exact hS2

/-- The PC is not in the invariant. -/
theorem Inv.setPc {s : State} (h : Inv s) (target : Word) : Inv (s.setPc target) := h

theorem Inv.saveAddress {s : State} (h : Inv s) (c : TrapCause) : Inv (s.saveAddress c) := by
  cases c with
  | misaligned addr => exact h.setS S3 addr
  | illegalInstruction | floatOverflow | floatDivZero | intDivZero | interrupt => exact h

theorem Inv.trapEntry {s : State} (h : Inv s) (c : TrapCause) (ret : Word) : Inv (trapEntry c ret s) :=
  ((((h.setS S0 _).setS S1 _).setS S2 _).saveAddress c).setPc _ |>.setS S7 _

theorem Inv.returnFromTrap {s : State} (h : Inv s) : Inv (returnFromTrap s) :=
  (h.setS S7 _).setPc _

theorem Inv.of_ordinary {i : Instr} {s t : State} (h : Inv s) (ho : Ordinary i s t) : Inv t :=
  ⟨ho.memory h.1, by rw [ho.sprs]; exact h.2⟩

theorem Inv.of_execEffect {i : Instr} {s t : State} (h : Inv s) (he : ExecEffect i s t) : Inv t := by
  cases he with
  | ordinary t ho => exact h.of_ordinary ho
  | raises c => exact h.trapEntry c _
  | setsInterrupts psw => exact h.setS S7 psw
  | returns => exact h.returnFromTrap
  | writesSpecial x a => exact h.setS x _

theorem Inv.of_stepEffect {s u : State} (h : Inv s) (he : StepEffect s u) : Inv u := by
  have hnext : Inv (advancePc s) := h.setPc _
  cases he with
  | interrupt => exact h.trapEntry _ _
  | oddFetch => exact hnext.trapEntry _ _
  | undefinedWord => exact hnext.trapEntry _ _
  | runs i u _ hexec => exact hnext.of_execEffect (exec_effect hexec)

/-- The inputs and the model's own counter, which `endStep` moves on, are not in the invariant. -/
theorem Inv.endStep {s : State} (h : Inv s) : Inv (endStep s) := h

/-- Settles O15, by the ways a step can end. -/
theorem stepKeepsTheInvariant : Obligations.StepKeepsTheInvariant := by
  intro s t hinv hstep
  obtain ⟨u, rfl, he⟩ := step_effect hstep
  exact (hinv.of_stepEffect he).endStep

/-- Settles O16. -/
theorem resetHasTheInvariant : Obligations.ResetHasTheInvariant :=
  ⟨Memory.wf_reset, by decide⟩

theorem Inv.of_reaches {s t : State} (h : Inv s) (hr : Reaches s t) : Inv t := by
  induction hr with
  | refl => exact h
  | oneMore t u _ hstep ih => exact stepKeepsTheInvariant t u ih hstep

/-- One step from a state with the invariant is safe: the machine is halted, or it runs and one of the effects of
`StepEffect` happens. -/
theorem Inv.safeStep {s : State} (h : Inv s) : SafeStep s := by
  unfold SafeStep
  cases hrun : s.halted with
  | true => rw [step_of_halted hrun]; exact ⟨rfl, rfl⟩
  | false =>
    obtain ⟨u, hu, he⟩ := step_of_running hrun
    rw [hu]
    exact ⟨rfl, (h.of_stepEffect he).endStep⟩

/-- Settles O17: the invariant holds of every reached state, and makes its step safe. -/
theorem reachedStatesStepSafely : Obligations.ReachedStatesStepSafely :=
  fun _ _ hinv hr => (hinv.of_reaches hr).safeStep

/-! ## The instruction a step runs -/

/-- Settles O7. -/
theorem stepRunsTheDecodedInstruction : Obligations.StepRunsTheDecodedInstruction := by
  rintro s i ⟨hat, heven, hdec⟩
  rw [step_of_atInstruction hat, instructionStep_of_even heven, runWord_of_decode_ok hdec]

/-- The state of `placeWord` before the word is stored in it. -/
def readyToLoad (s : State) : State :=
  { s with halted := false, env := { s.env with intReq := false }, pc := s.pc &&& 0xFFFE#16 }

theorem placeWord_eq (s : State) (lo hi : Byte) :
    placeWord s lo hi = (readyToLoad s).writeWord (readyToLoad s).pc (wordOfBytes lo hi) := by
  rw [State.writeWord, lowByte_wordOfBytes, highByte_wordOfBytes]
  rfl

theorem placeWord_atInstruction (s : State) (lo hi : Byte) : AtInstruction (placeWord s lo hi) :=
  ⟨rfl, .inr rfl⟩

theorem placeWord_pc_even (s : State) (lo hi : Byte) : isOdd (placeWord s lo hi).pc = false := by
  rw [placeWord_eq, pc_writeWord]
  simp [readyToLoad, isOdd]

/-- The word is read back at the very address the step fetches from (10_state.md R24). -/
theorem placeWord_readWord (s : State) (lo hi : Byte) :
    (placeWord s lo hi).readWord (placeWord s lo hi).pc = wordOfBytes lo hi := by
  rw [placeWord_eq, pc_writeWord, readWord_writeWord]

/-- The two bytes of a number modulo 2^16, low byte first, make its word (20_memory.md R62). -/
theorem wordOfBytes_ofNat (w : Nat) :
    wordOfBytes (BitVec.ofNat 8 (w % 2 ^ 16)) (BitVec.ofNat 8 (w % 2 ^ 16 / 256)) = BitVec.ofNat 16 w := by
  have hlow : BitVec.ofNat 8 (w % 2 ^ 16) = lowByte (BitVec.ofNat 16 w) := by
    apply BitVec.eq_of_toNat_eq
    simp [lowByte]
  have hhigh : BitVec.ofNat 8 (w % 2 ^ 16 / 256) = highByte (BitVec.ofNat 16 w) := by
    apply BitVec.eq_of_toNat_eq
    simp [highByte, Nat.shiftRight_eq_div_pow]
  rw [hlow, hhigh, wordOfBytes_halves]

theorem withFetchWord_readWord (s : State) (w : Nat) :
    (s.withFetchWord 16 w).readWord (s.withFetchWord 16 w).pc = BitVec.ofNat 16 w :=
  (placeWord_readWord s _ _).trans (wordOfBytes_ofNat w)

/-- Settles O8: the loaded state starts an instruction at an even `pc`, and the fetch reads the word back. -/
theorem withFetchWordRunsThatWord : Obligations.WithFetchWordRunsThatWord := by
  intro s w _
  have hat : AtInstruction (s.withFetchWord 16 w) := placeWord_atInstruction s _ _
  have heven : isOdd (s.withFetchWord 16 w).pc = false := placeWord_pc_even s _ _
  rw [step_of_atInstruction hat, instructionStep_of_even heven, withFetchWord_readWord s w]

/-! ## The PC -/

/-- Settles O20, by the ways an instruction can end. -/
theorem onlyTransfersAndTrapsMoveThePc : Obligations.OnlyTransfersAndTrapsMoveThePc := by
  intro i s t hi hexec
  have goesOn (h : t.pc = s.pc) : if mayRaise i then t.pc = s.pc ∨ t.pc = s.S S5 else t.pc = s.pc := by
    simp [h]
  cases exec_effect hexec with
  | ordinary t ho => exact goesOn (ho.pc hi)
  | raises c hraise => rw [if_pos hraise]; exact .inr (trapEntry_pc s c s.pc)
  | setsInterrupts | writesSpecial => exact goesOn rfl
  | returns h => subst h; simp [isTransfer] at hi

/-! ## The special registers -/

/-- Beside the registers of every entry, a trap entry writes S3 alone, and that for a misaligned access only (60_exceptions.md
R285). -/
theorem trapEntry_S_changed {c : TrapCause} {ret : Word} {s : State} {x : SReg} (hx : x ∉ trapSpecials)
    (hne : (trapEntry c ret s).S x ≠ s.S x) :
    x = S3 ∧ ∃ ea, c = .misaligned ea ∧ (trapEntry c ret s).S x = ea := by
  simp only [trapSpecials, List.mem_cons, List.not_mem_nil, or_false, not_or] at hx
  obtain ⟨h0, h1, h2, h7⟩ := hx
  by_cases h3 : x = S3
  · subst h3
    cases c with
    | misaligned ea => exact ⟨rfl, ea, rfl, by simp [trapEntry_spr, h7]⟩
    | illegalInstruction | floatOverflow | floatDivZero | intDivZero | interrupt =>
      exact absurd (by simp [trapEntry_spr, h7]) hne
  · exact absurd (by simp [trapEntry_spr, h0, h1, h2, h3, h7]) hne

/-- How an instruction can change a special register that is none of S0, S1, S2 and S7. -/
theorem ExecEffect.S_changed {i : Instr} {s t : State} (he : ExecEffect i s t) {x : SReg} (hx : x ∉ trapSpecials)
    (hne : t.S x ≠ s.S x) :
    (x = S3 ∧ ∃ ea, wordAccess i s = some ea ∧ isOdd ea = true ∧ t.S x = ea) ∨
    ∃ a, i = .wrs x a ∧ t.S x = s.R a := by
  have h7 : x ≠ S7 := fun h => hx (by simp [h, trapSpecials])
  cases he with
  | ordinary t ho => exact absurd (ho.sprs x) hne
  | raises c _ hc =>
    obtain ⟨h3, ea, hea, hS⟩ := trapEntry_S_changed hx hne
    obtain ⟨hacc, hodd⟩ := hc ea hea
    exact .inl ⟨h3, ea, hacc, hodd, hS⟩
  | setsInterrupts psw => exact absurd (S_setS_other s x S7 psw h7) hne
  | returns => exact absurd (by rw [returnFromTrap_spr, if_neg h7]) hne
  | writesSpecial y a hi =>
    by_cases hxy : x = y
    · subst hxy
      have h2 : x.num ≠ 2 := fun h => hx (by simp [trapSpecials, S2, ← h])
      exact .inr ⟨a, hi, by rw [S_setS_same, sregStored_other x _ h2]⟩
    · exact absurd (S_setS_other s x y _ hxy) hne

@[simp] theorem wordAccess_advancePc (i : Instr) (s : State) : wordAccess i (advancePc s) = wordAccess i s := by
  cases i <;> rfl

/-- How a step can change a special register that is none of S0, S1, S2 and S7. -/
theorem step_S_changed {s t : State} (hstep : step s = .next t) {x : SReg} (hx : x ∉ trapSpecials)
    (hne : t.S x ≠ s.S x) :
    (x = S3 ∧ isOdd s.pc = true ∧ t.S x = s.pc) ∨
    (x = S3 ∧ ∃ i ea, RunsAt s i ∧ wordAccess i s = some ea ∧ isOdd ea = true ∧ t.S x = ea) ∨
    (∃ a, RunsAt s (.wrs x a) ∧ t.S x = s.R a) := by
  obtain ⟨u, rfl, he⟩ := step_effect hstep
  cases he with
  | interrupt =>
    obtain ⟨-, ea, hea, -⟩ := trapEntry_S_changed hx hne
    cases hea
  | oddFetch _ hodd =>
    obtain ⟨h3, ea, hea, hS⟩ := trapEntry_S_changed (s := advancePc s) hx hne
    cases hea
    exact .inl ⟨h3, hodd, hS⟩
  | undefinedWord =>
    obtain ⟨-, ea, hea, -⟩ := trapEntry_S_changed (s := advancePc s) hx hne
    cases hea
  | runs i u hruns hexec =>
    obtain ⟨h3, ea, hacc, hodd, hS⟩ | ⟨a, rfl, hS⟩ := (exec_effect hexec).S_changed hx hne
    · exact .inr (.inl ⟨h3, i, ea, hruns, by simpa using hacc, hodd, hS⟩)
    · exact .inr (.inr ⟨a, hruns, hS⟩)

/-- Settles O22: S3 is none of the registers every entry writes. -/
theorem onlyMisalignmentAndWrsChangeS3 : Obligations.OnlyMisalignmentAndWrsChangeS3 := by
  intro s t hstep hne
  obtain ⟨-, hfetch⟩ | ⟨-, haccess⟩ | hwrs := step_S_changed hstep (x := S3) (by decide) hne
  · exact .inl hfetch
  · exact .inr (.inl haccess)
  · exact .inr (.inr hwrs)

/-- Settles O23: no entry writes S4, S5 or S6, so WRS alone is left. -/
theorem onlyWrsChangesS4S5S6 : Obligations.OnlyWrsChangesS4S5S6 := by
  intro s t x hx hstep hne
  have noEntry : ∀ y ∈ [(⟨4⟩ : SReg), ⟨5⟩, ⟨6⟩], y ∉ trapSpecials ∧ y ≠ S3 := by decide
  obtain ⟨hentry, h3⟩ := noEntry x hx
  obtain ⟨h, -⟩ | ⟨h, -⟩ | hwrs := step_S_changed hstep hentry hne
  · exact absurd h h3
  · exact absurd h h3
  · exact hwrs

/-! ## Bit V of the PSW -/

/-- The entry clears I and no other bit of S7 (60_exceptions.md R285). -/
@[simp] theorem trapEntry_statusV (c : TrapCause) (ret : Word) (s : State) :
    statusV ((trapEntry c ret s).S S7) = statusV (s.S S7) := by
  simp [trapEntry_spr]

theorem ExecEffect.statusV_changed {i : Instr} {s t : State} (he : ExecEffect i s t)
    (hne : statusV (t.S S7) ≠ statusV (s.S S7)) :
    (∃ a, i = .wrs S7 a ∧ t.S S7 = s.R a) ∨ (i = .reti ∧ t.S S7 = s.S S0) := by
  cases he with
  | ordinary t ho => exact absurd (congrArg statusV (ho.sprs S7)) hne
  | raises c => exact absurd (trapEntry_statusV c _ s) hne
  | setsInterrupts psw _ hV =>
    rw [S_setS_same, sregStored_other S7 psw (by decide)] at hne
    exact absurd hV hne
  | returns hi => exact .inr ⟨hi, by rw [returnFromTrap_spr, if_pos rfl]⟩
  | writesSpecial x a hi =>
    by_cases hx : S7 = x
    · subst hx
      exact .inl ⟨a, hi, by rw [S_setS_same, sregStored_other S7 _ (by decide)]⟩
    · exact absurd (congrArg statusV (S_setS_other s S7 x _ hx)) hne

/-- Settles O24: the entries and every instruction but WRS S7 and RETI keep V. -/
theorem onlyWrsAndRetiChangeV : Obligations.OnlyWrsAndRetiChangeV := by
  intro s t hstep hne
  obtain ⟨u, rfl, he⟩ := step_effect hstep
  cases he with
  | interrupt => exact absurd (trapEntry_statusV _ _ s) hne
  | oddFetch => exact absurd (trapEntry_statusV _ _ (advancePc s)) hne
  | undefinedWord => exact absurd (trapEntry_statusV _ _ (advancePc s)) hne
  | runs i u hruns hexec =>
    obtain ⟨a, rfl, hS⟩ | ⟨rfl, hS⟩ := (exec_effect hexec).statusV_changed hne
    · exact .inl ⟨a, hruns, hS⟩
    · exact .inr ⟨hruns, hS⟩

end Sys2Proof.Machine

/-! PROOFS of the family 20_memory.md. Each store and load is first given its one effect at an even address; what a load sees
is then a read of the bytes a store has written, by the laws of memory. -/

namespace Sys2Proof.Machine

/-! ## Even addresses -/

theorem isOdd_eq_decide (a : Word) : isOdd a = decide (a.toNat % 2 = 1) :=
  Nat.testBit_zero a.toNat

/-- An even offset does not change the parity of an address. -/
theorem isOdd_add_of_even (a : Word) {b : Word} (hb : isOdd b = false) : isOdd (a + b) = isOdd a := by
  rw [isOdd_eq_decide, decide_eq_false_iff_not] at hb
  rw [isOdd_eq_decide, isOdd_eq_decide, decide_eq_decide, BitVec.toNat_add]
  omega

@[simp] theorem isOdd_scaled (n : Int) : isOdd (scaled n) = false := by
  simp [isOdd, scaled]

/-- The displacement of scale 2 is even, so the base alone decides whether a 16-bit access is misaligned (20_memory.md R67). -/
@[simp] theorem isOdd_wordAddr (base : Word) (n : Int) : isOdd (wordAddr base n) = isOdd base :=
  isOdd_add_of_even base (isOdd_scaled n)

@[simp] theorem byteAddr_zero (base : Word) : byteAddr base 0 = base := by
  simp [byteAddr, sext16]

@[simp] theorem byteAddr_one (base : Word) : byteAddr base 1 = base + 1 := rfl

/-! ## A 16-bit read -/

@[simp] theorem readWord_endStep (s : State) (a : Word) : (endStep s).readWord a = s.readWord a := rfl

theorem readWord_writeByte_low (s : State) (a : Word) (v : Byte) :
    (s.writeByte a v).readWord a = s.readByte (a + 1) ++ v := by
  rw [State.readWord, readByte_writeByte_same, readByte_writeByte_other s (a + 1) a v (addr_succ_ne a), wordOfBytes]

theorem readWord_writeByte_high (s : State) (a : Word) (v : Byte) :
    (s.writeByte (a + 1) v).readWord a = v ++ s.readByte a := by
  rw [State.readWord, readByte_writeByte_same, readByte_writeByte_other s a (a + 1) v (addr_succ_ne a).symm, wordOfBytes]

/-! ## Stores and loads at an even base -/

section Access

variable {s : State} {a : GReg}

theorem exec_st_of_even (heven : isOdd (s.R a) = false) (b : GReg) (n : Int) :
    exec (.st b a n) s = .next (s.writeWord (wordAddr (s.R a) n) (s.R b)) := by
  simp [exec, execSt, storeItem_eq, heven]

theorem exec_stf_of_even (heven : isOdd (s.R a) = false) (b : FReg) (n : Int) :
    exec (.stf b a n) s = .next (s.writeWord (wordAddr (s.R a) n) (s.F b)) := by
  simp [exec, execStf, storeItem_eq, heven]

theorem exec_ld_of_even (heven : isOdd (s.R a) = false) (d : GReg) (n : Int) :
    exec (.ld d a n) s = .next (s.setR d (s.readWord (wordAddr (s.R a) n))) := by
  simp [exec, execLd, loadItem_eq, heven]

theorem exec_ldf_of_even (heven : isOdd (s.R a) = false) (f : FReg) (n : Int) :
    exec (.ldf f a n) s = .next (s.setF f (s.readWord (wordAddr (s.R a) n))) := by
  simp [exec, execLdf, loadItem_eq, heven]

end Access

theorem exec_stb (b a : GReg) (n : Int) (s : State) :
    exec (.stb b a n) s = .next (s.writeByte (byteAddr (s.R a) n) (lowByte (s.R b))) := by
  simp [exec, execStb]

theorem exec_ldb (d a : GReg) (n : Int) (s : State) :
    exec (.ldb d a n) s = .next (s.setR d (sextByte (s.readByte (byteAddr (s.R a) n)))) := by
  simp [exec, execLdb]

/-! ## What a load gives -/

theorem ld_gives {s : State} {a : GReg} {n : Int} {w : Word} (heven : isOdd (s.R a) = false)
    (hw : s.readWord (wordAddr (s.R a) n) = w) (d : GReg) : Completes (exec (.ld d a n) s) (fun t => t.R d = w) :=
  ⟨_, exec_ld_of_even heven d n, (R_setR_same s d _).trans hw⟩

theorem ldf_gives {s : State} {a : GReg} {n : Int} {w : Word} (heven : isOdd (s.R a) = false)
    (hw : s.readWord (wordAddr (s.R a) n) = w) (f : FReg) : Completes (exec (.ldf f a n) s) (fun t => t.F f = w) :=
  ⟨_, exec_ldf_of_even heven f n, (F_setF_same s f _).trans hw⟩

theorem ldb_gives {s : State} {a : GReg} {n : Int} {v : Byte} (hv : s.readByte (byteAddr (s.R a) n) = v) (d : GReg) :
    Completes (exec (.ldb d a n) s) (fun t => t.R d = v.signExtend 16) :=
  ⟨_, exec_ldb d a n s, by simp only [R_setR_same, hv, sextByte]⟩

/-- Whatever register a stored word came from, LD and LDF give it back and LDB its halves (20_memory.md R62, R82). -/
theorem loads_after_writeWord {a e : GReg} {n : Int} {s : State} {ea : Word} (heven : isOdd (s.R a) = false)
    (hea : ea = wordAddr (s.R a) n) (v : Word) (d : GReg) (f : FReg) :
    Completes (exec (.ld d a n) (s.writeWord ea v)) (fun t => t.R d = v) ∧
    Completes (exec (.ldf f a n) (s.writeWord ea v)) (fun t => t.F f = v) ∧
    (s.R e = ea →
      Completes (exec (.ldb d e 0) (s.writeWord ea v)) (fun t => t.R d = (lowByte v).signExtend 16) ∧
      Completes (exec (.ldb d e 1) (s.writeWord ea v)) (fun t => t.R d = (highByte v).signExtend 16)) := by
  have hbase : isOdd ((s.writeWord ea v).R a) = false := by rwa [R_writeWord]
  have hword : (s.writeWord ea v).readWord (wordAddr ((s.writeWord ea v).R a) n) = v := by
    rw [R_writeWord, ← hea, readWord_writeWord]
  refine ⟨ld_gives hbase hword d, ldf_gives hbase hword f, fun he => ⟨ldb_gives ?_ d, ldb_gives ?_ d⟩⟩
  · rw [R_writeWord, he, byteAddr_zero, readByte_writeWord_low]
  · rw [R_writeWord, he, byteAddr_one, readByte_writeWord_high]

/-- After a byte is stored at `x`, LD and LDF give what the word `w` at their own address has become, and LDB at `x` gives the
byte; at which half of `w` the address `x` lies is left to `hw`. -/
theorem loads_after_writeByte {a e : GReg} {n m : Int} {s : State} {x : Word} {v : Byte} {w : Word}
    (heven : isOdd (s.R a) = false) (hx : byteAddr (s.R e) m = x)
    (hw : (s.writeByte x v).readWord (wordAddr (s.R a) n) = w) (d : GReg) (f : FReg) :
    Completes (exec (.ld d a n) (s.writeByte x v)) (fun t => t.R d = w) ∧
    Completes (exec (.ldf f a n) (s.writeByte x v)) (fun t => t.F f = w) ∧
    Completes (exec (.ldb d e m) (s.writeByte x v)) (fun t => t.R d = v.signExtend 16) := by
  have hbase : isOdd ((s.writeByte x v).R a) = false := by rwa [R_writeByte]
  refine ⟨ld_gives hbase ?_ d, ldf_gives hbase ?_ f, ldb_gives ?_ d⟩
  · rw [R_writeByte, hw]
  · rw [R_writeByte, hw]
  · rw [R_writeByte, hx, readByte_writeByte_same]

/-- Settles O48, by the width of the store: a word from either register file, or a byte at either half of the word. -/
theorem loadsSeeTheStoredWord : Obligations.LoadsSeeTheStoredWord := by
  intro b a d e f g n s ea heven hea
  refine ⟨⟨s.writeWord ea (s.R b), ?_, loads_after_writeWord heven hea (s.R b) d f⟩,
    ⟨s.writeWord ea (s.F g), ?_, loads_after_writeWord heven hea (s.F g) d f⟩,
    fun he => ⟨⟨s.writeByte ea (lowByte (s.R b)), ?_, loads_after_writeByte heven ?_ ?_ d f⟩,
      ⟨s.writeByte (ea + 1) (lowByte (s.R b)), ?_, loads_after_writeByte heven ?_ ?_ d f⟩⟩⟩
  · rw [exec_st_of_even heven, hea]
  · rw [exec_stf_of_even heven, hea]
  · rw [exec_stb, byteAddr_zero, he]
  · rw [byteAddr_zero, he]
  · rw [← hea]; exact readWord_writeByte_low s ea _
  · rw [exec_stb, byteAddr_one, he]
  · rw [byteAddr_one, he]
  · rw [← hea]; exact readWord_writeByte_high s ea _

/-! ## The next fetch -/

/-- Settles O49: the address stored at is the next `pc`, which is even, so the store is not misaligned. -/
theorem storeIsSeenByTheNextFetch : Obligations.StoreIsSeenByTheNextFetch := by
  rintro b a n s ⟨hat, hpc, hdec⟩ hnext
  have heven : isOdd ((advancePc s).R a) = false := by
    rw [R_advancePc, ← isOdd_wordAddr (s.R a) n, hnext, isOdd_add_of_even s.pc rfl, hpc]
  have hstep : step s = .next (endStep ((advancePc s).writeWord (s.pc + 2) (s.R b))) := by
    rw [stepRunsTheDecodedInstruction s _ ⟨hat, hpc, hdec⟩, exec_st_of_even heven, onNext_next,
      R_advancePc, R_advancePc, hnext]
  exact ⟨_, hstep, rfl, readWord_writeWord (advancePc s) (s.pc + 2) (s.R b)⟩

/-! ## Progress -/

/-- Settles O14: the interrupt, both kinds of failed fetch and every instruction answer a next state (`step_of_running`). -/
theorem runningMachineAlwaysSteps : Obligations.RunningMachineAlwaysSteps := by
  intro s hrun
  obtain ⟨u, hstep, -⟩ := step_of_running hrun
  exact ⟨endStep u, hstep⟩

/-! ## The misaligned fetch -/

@[simp] theorem statusI_inhibitInterrupts (psw : Word) : statusI (inhibitInterrupts psw) = false := by
  simp [statusI, inhibitInterrupts]

/-- DI and step 6 of the entry leave every bit but I as it was. -/
theorem getLsbD_inhibitInterrupts_other (psw : Word) {k : Nat} (hk : k ≠ 1) :
    (inhibitInterrupts psw).getLsbD k = psw.getLsbD k := by
  have mask : ∀ j < 16, j ≠ 1 → (0xFFFD#16).getLsbD j = true := by decide
  rw [inhibitInterrupts, BitVec.getLsbD_and]
  by_cases h16 : k < 16
  · rw [mask k h16 hk, Bool.and_true]
  · rw [BitVec.getLsbD_of_ge psw k (by omega), Bool.false_and]

/-- An entry writes no special register outside `misalignedSpecials` (60_exceptions.md R285). -/
theorem trapEntry_spr_other {x : SReg} (hx : x ∉ misalignedSpecials) (c : TrapCause) (ret : Word) (s : State) :
    (trapEntry c ret s).S x = s.S x := by
  simp only [misalignedSpecials, List.mem_cons, List.not_mem_nil, or_false, not_or] at hx
  obtain ⟨h0, h1, h2, h3, h7⟩ := hx
  simp [trapEntry_spr, h0, h1, h2, h3, h7]

theorem trapEntry_onlyChanges (c : TrapCause) (ret : Word) (s : State) :
    OnlyChanges { ss := misalignedSpecials } s (trapEntry c ret s) where
  gprs r _ := trapEntry_R s c ret r
  fprs r _ := trapEntry_F s c ret r
  sprs _ hx := trapEntry_spr_other hx c ret s
  memory a _ := trapEntry_readByte s c ret a
  outputs p _ := trapEntry_outPort s c ret p
  history := by simp
  halted := by simp
  env := trapEntry_env s c ret
  script := trapEntry_script s c ret
  tick := trapEntry_tick s c ret

/-- The trap entry enters the handler (60_exceptions.md R285). -/
theorem trapEntry_entersHandler (c : TrapCause) (ret : Word) (s : State) :
    EntersHandler c ret s (trapEntry c ret s) where
  savedStatus := by simp [trapEntry_spr, S0, S1, S2, S3, S7]
  returnAddr := by simp [trapEntry_spr, S1, S2, S3, S7]
  code := by simp [trapEntry_spr, S2, S3, S7]
  address addr h := by simp [trapEntry_spr, h, S3, S7]
  keptAddress h := by
    cases c with
    | misaligned addr => exact absurd rfl (h addr)
    | illegalInstruction | floatOverflow | floatDivZero | intDivZero | interrupt => simp [trapEntry_spr, S3, S7]
  handler := trapEntry_pc s c ret
  inhibited := by rw [trapEntry_spr, if_pos rfl, statusI_inhibitInterrupts]
  statusBits k hk := by rw [trapEntry_spr, if_pos rfl, getLsbD_inhibitInterrupts_other _ hk]
  frame := trapEntry_onlyChanges c ret s

theorem OnlyChanges.of_advancePc {w : Touched} {s t : State} (h : OnlyChanges w (advancePc s) t) : OnlyChanges w s t :=
  ⟨h.gprs, h.fprs, h.sprs, h.memory, h.outputs, h.history, h.halted, h.env, h.script, h.tick⟩

/-- The entry reads S5 and S7 and not the PC, so it is the same before and after `pc` moves to `pcup`. -/
theorem EntersHandler.of_advancePc {c : TrapCause} {ret : Word} {s t : State}
    (h : EntersHandler c ret (advancePc s) t) : EntersHandler c ret s t :=
  ⟨h.savedStatus, h.returnAddr, h.code, h.address, h.keptAddress, h.handler, h.inhibited, h.statusBits,
    h.frame.of_advancePc⟩

theorem step_of_odd {s : State} (hat : AtInstruction s) (hodd : isOdd s.pc = true) :
    step s = .next (endStep (trapEntry (.misaligned s.pc) (s.pc + 2) (advancePc s))) := by
  rw [step_of_atInstruction hat, instructionStep_of_odd hodd, raise, onNext_next, pc_advancePc]

/-- Settles O11: the step is the trap entry alone, with `pc` already at `pcup`. -/
theorem oddFetchEntersHandler : Obligations.OddFetchEntersHandler := by
  intro s hat hodd
  have henters : EntersHandler (.misaligned s.pc) (s.pc + 2) s _ :=
    (trapEntry_entersHandler (.misaligned s.pc) (s.pc + 2) (advancePc s)).of_advancePc
  exact ⟨_, henters, henters.code, henters.address s.pc rfl, step_of_odd hat hodd⟩

end Sys2Proof.Machine

/-! PROOFS of the family 30_encoding.md. The decoder is first given one equation per operation code, on words written in the
format of that code. Read forwards they decode what the encoder writes; read backwards, by the operation code of any word or by
the mask of a row, they say which words decode and to what. -/

namespace Sys2Proof

open Machine

/-! ## The decoder by operation code -/

section Formats

variable (p : FixedFieldPolicy) (d a f b : BitVec 3) (n6 : BitVec 6) (n8 : BitVec 8)

theorem decodeWith_logic : decodeWith p (word3Reg 0b0000#4 d a f b) = decodeLogic p f d a b := by
  simp [decodeWith]

theorem decodeWith_compare : decodeWith p (word3Reg 0b0001#4 d a f b) = decodeCompare f d a b := by
  simp [decodeWith]

theorem decodeWith_addi :
    decodeWith p (word2Reg 0b0010#4 d a n6) = .ok (.addi (gregOf d) (gregOf a) n6.toInt) := by
  simp [decodeWith]

theorem decodeWith_ld : decodeWith p (word2Reg 0b0011#4 d a n6) = .ok (.ld (gregOf d) (gregOf a) n6.toInt) := by
  simp [decodeWith]

theorem decodeWith_st : decodeWith p (word2Reg 0b0100#4 d a n6) = .ok (.st (gregOf d) (gregOf a) n6.toInt) := by
  simp [decodeWith]

theorem decodeWith_movi : decodeWith p (word1Reg 0b0101#4 d 0#1 n8) = .ok (.movi (gregOf d) n8.toInt) := by
  simp [decodeWith]

theorem decodeWith_movhi : decodeWith p (word1Reg 0b0101#4 d 1#1 n8) = .ok (.movhi (gregOf d) n8) := by
  simp [decodeWith]

theorem decodeWith_bz : decodeWith p (word1Reg 0b0110#4 d 0#1 n8) = .ok (.bz (gregOf d) n8.toInt) := by
  simp [decodeWith]

theorem decodeWith_bnz : decodeWith p (word1Reg 0b0110#4 d 1#1 n8) = .ok (.bnz (gregOf d) n8.toInt) := by
  simp [decodeWith]

theorem decodeWith_inp : decodeWith p (word1Reg 0b0111#4 d 0#1 n8) = .ok (.inp (gregOf d) n8.toFin) := by
  simp [decodeWith]

theorem decodeWith_out : decodeWith p (word1Reg 0b0111#4 d 1#1 n8) = .ok (.out (gregOf d) n8.toFin) := by
  simp [decodeWith]

theorem decodeWith_mulDiv : decodeWith p (word3Reg 0b1000#4 d a f b) = decodeMulDiv f d a b := by
  simp [decodeWith]

theorem decodeWith_float : decodeWith p (word3Reg 0b1001#4 d a f b) = decodeFloat f d a b := by
  simp [decodeWith]

theorem decodeWith_jump : decodeWith p (word2Reg 0b1010#4 d a n6) = decodeJump p n6 d a := by
  simp [decodeWith]

theorem decodeWith_ldf : decodeWith p (word2Reg 0b1011#4 d a n6) = .ok (.ldf (fregOf d) (gregOf a) n6.toInt) := by
  simp [decodeWith]

theorem decodeWith_stf : decodeWith p (word2Reg 0b1100#4 d a n6) = .ok (.stf (fregOf d) (gregOf a) n6.toInt) := by
  simp [decodeWith]

theorem decodeWith_ldb : decodeWith p (word2Reg 0b1101#4 d a n6) = .ok (.ldb (gregOf d) (gregOf a) n6.toInt) := by
  simp [decodeWith]

theorem decodeWith_stb : decodeWith p (word2Reg 0b1110#4 d a n6) = .ok (.stb (gregOf d) (gregOf a) n6.toInt) := by
  simp [decodeWith]

theorem decodeWith_special : decodeWith p (word2Reg 0b1111#4 d a n6) = decodeSpecial p n6 d a := by
  simp [decodeWith]

end Formats

theorem withFixedField_ignore (holds : Bool) (i : Instr) : withFixedField .ignore holds i = .ok i := by
  cases holds <;> rfl

theorem withFixedField_illegal (holds : Bool) (i : Instr) :
    withFixedField .illegal holds i = if holds then .ok i else .error .fixedField := rfl

/-! ## Decoding what the encoder writes -/

/-- The round trip, under either policy: the encoder writes the fixed fields at their values. -/
theorem decodeWith_encode (p : FixedFieldPolicy) {i : Instr} (h : WellFormed i = true) :
    decodeWith p (encode i) = .ok i := by
  cases i with
  | and | or | xor | not | add | sub | sha | shl => exact decodeWith_logic ..
  | cmplt | cmple | cmpeq | cmpltu | cmpleu => exact decodeWith_compare ..
  | addi => exact (decodeWith_addi ..).trans (by rw [toInt_ofInt_of_fitsField6 h]; rfl)
  | ld => exact (decodeWith_ld ..).trans (by rw [toInt_ofInt_of_fitsField6 h]; rfl)
  | st => exact (decodeWith_st ..).trans (by rw [toInt_ofInt_of_fitsField6 h]; rfl)
  | movi => exact (decodeWith_movi ..).trans (by rw [toInt_ofInt_of_fitsField8 h]; rfl)
  | movhi => exact decodeWith_movhi ..
  | bz => exact (decodeWith_bz ..).trans (by rw [toInt_ofInt_of_fitsField8 h]; rfl)
  | bnz => exact (decodeWith_bnz ..).trans (by rw [toInt_ofInt_of_fitsField8 h]; rfl)
  | inp => exact decodeWith_inp ..
  | out => exact decodeWith_out ..
  | mul | mulh | mulhu | div | divu => exact decodeWith_mulDiv ..
  | addf | subf | mulf | divf | cmpltf | cmplef | cmpeqf => exact decodeWith_float ..
  | jz | jnz | jmp | jal => exact decodeWith_jump ..
  | ldf => exact (decodeWith_ldf ..).trans (by rw [toInt_ofInt_of_fitsField6 h]; rfl)
  | stf => exact (decodeWith_stf ..).trans (by rw [toInt_ofInt_of_fitsField6 h]; rfl)
  | ldb => exact (decodeWith_ldb ..).trans (by rw [toInt_ofInt_of_fitsField6 h]; rfl)
  | stb => exact (decodeWith_stb ..).trans (by rw [toInt_ofInt_of_fitsField6 h]; rfl)
  | ei => exact decodeWith_special p 0 0 0b100000#6
  | di => exact decodeWith_special p 0 0 0b100001#6
  | reti => exact decodeWith_special p 0 0 0b100100#6
  | getiid | rds | wrs => exact decodeWith_special ..
  | halt => exact decodeWith_special p 7 7 0b111111#6

/-- Settles O2, at the policy of the machine. -/
theorem decodeEncodeRoundTrip : Obligations.DecodeEncodeRoundTrip :=
  fun _ h => decodeWith_encode fixedFieldPolicy h

theorem decode_of_encode_eq {w : Word} {i : Instr} (henc : encode i = w) (hwf : WellFormed i = true) :
    decode w = .ok i :=
  henc ▸ decodeEncodeRoundTrip i hwf

/-- Settles O1: each of the words is the encoding of its instruction. -/
theorem sampleWordsDecode : Obligations.SampleWordsDecode := by
  refine ⟨?_, ?_, ?_, ?_, ?_, ?_, ?_, ?_⟩ <;> exact decode_of_encode_eq (by decide) (by decide)

/-! ## A word in each format -/

theorem word3Reg_slices (w : Word) :
    word3Reg (slice w 12 4) (slice w 9 3) (slice w 6 3) (slice w 3 3) (slice w 0 3) = w := by
  apply word_ext
  intro i hi
  simp only [getLsbD_word3Reg, getLsbD_slice]
  interval_cases i <;> simp

theorem word2Reg_slices (w : Word) :
    word2Reg (slice w 12 4) (slice w 9 3) (slice w 6 3) (slice w 0 6) = w := by
  apply word_ext
  intro i hi
  simp only [getLsbD_word2Reg, getLsbD_slice]
  interval_cases i <;> simp

theorem word1Reg_slices (w : Word) :
    word1Reg (slice w 12 4) (slice w 9 3) (slice w 8 1) (slice w 0 8) = w := by
  apply word_ext
  intro i hi
  simp only [getLsbD_word1Reg, getLsbD_slice]
  interval_cases i <;> simp

section OperationCode

variable {w : Word} {c : BitVec 4}

theorem exists_word3Reg (h : slice w 12 4 = c) : ∃ d a f b, w = word3Reg c d a f b :=
  ⟨_, _, _, _, by rw [← h, word3Reg_slices]⟩

theorem exists_word2Reg (h : slice w 12 4 = c) : ∃ d a n, w = word2Reg c d a n :=
  ⟨_, _, _, by rw [← h, word2Reg_slices]⟩

theorem exists_word1Reg (h : slice w 12 4 = c) : ∃ d e n, w = word1Reg c d e n :=
  ⟨_, _, _, by rw [← h, word1Reg_slices]⟩

end OperationCode

theorem bitVec1_cases : ∀ e : BitVec 1, e = 0#1 ∨ e = 1#1 := by decide

theorem bitVec3_cases : ∀ f : BitVec 3,
    f = 0#3 ∨ f = 1#3 ∨ f = 2#3 ∨ f = 3#3 ∨ f = 4#3 ∨ f = 5#3 ∨ f = 6#3 ∨ f = 7#3 := by decide

theorem bitVec4_cases : ∀ c : BitVec 4,
    c = 0x0#4 ∨ c = 0x1#4 ∨ c = 0x2#4 ∨ c = 0x3#4 ∨ c = 0x4#4 ∨ c = 0x5#4 ∨ c = 0x6#4 ∨ c = 0x7#4 ∨
    c = 0x8#4 ∨ c = 0x9#4 ∨ c = 0xA#4 ∨ c = 0xB#4 ∨ c = 0xC#4 ∨ c = 0xD#4 ∨ c = 0xE#4 ∨ c = 0xF#4 := by decide

/-! ## Every word that decodes -/

/-- What the decoder answers for `w` is right: an instruction it gives is well-formed and `w` is its encoding. -/
def DecodesSoundly (w : Word) (r : Except DecodeReject Instr) : Prop :=
  ∀ i, r = .ok i → WellFormed i = true ∧ encode i = w

section Sound

variable {w : Word} {i : Instr} (d a f b : BitVec 3) (n6 : BitVec 6)

theorem DecodesSoundly.ok (hwf : WellFormed i = true) (henc : encode i = w) : DecodesSoundly w (.ok i) := by
  rintro _ ⟨⟩
  exact ⟨hwf, henc⟩

theorem DecodesSoundly.error (r : DecodeReject) : DecodesSoundly w (.error r) := nofun

/-- Under `illegal` the fixed field of an accepted word holds its value. -/
theorem DecodesSoundly.of_fixedField {holds : Bool} (hwf : WellFormed i = true) (henc : holds = true → encode i = w) :
    DecodesSoundly w (withFixedField .illegal holds i) := by
  cases holds with
  | true => exact .ok hwf (henc rfl)
  | false => exact .error .fixedField

theorem decodeLogic_sound : DecodesSoundly (word3Reg 0b0000#4 d a f b) (decodeLogic .illegal f d a b) := by
  obtain rfl | rfl | rfl | hnot | rfl | rfl | rfl | rfl := bitVec3_cases f
  case inr.inr.inr.inl =>
    subst hnot
    exact .of_fixedField rfl fun hb => by rw [beq_iff_eq.mp hb]; rfl
  all_goals exact .ok rfl rfl

theorem decodeCompare_sound : DecodesSoundly (word3Reg 0b0001#4 d a f b) (decodeCompare f d a b) := by
  obtain rfl | rfl | rfl | rfl | rfl | rfl | rfl | rfl := bitVec3_cases f
  exacts [.ok rfl rfl, .ok rfl rfl, .error _, .ok rfl rfl, .ok rfl rfl, .ok rfl rfl, .error _, .error _]

theorem decodeMulDiv_sound : DecodesSoundly (word3Reg 0b1000#4 d a f b) (decodeMulDiv f d a b) := by
  obtain rfl | rfl | rfl | rfl | rfl | rfl | rfl | rfl := bitVec3_cases f
  exacts [.ok rfl rfl, .ok rfl rfl, .ok rfl rfl, .error _, .ok rfl rfl, .ok rfl rfl, .error _, .error _]

theorem decodeFloat_sound : DecodesSoundly (word3Reg 0b1001#4 d a f b) (decodeFloat f d a b) := by
  obtain rfl | rfl | rfl | rfl | rfl | rfl | rfl | rfl := bitVec3_cases f
  exacts [.ok rfl rfl, .ok rfl rfl, .ok rfl rfl, .ok rfl rfl, .ok rfl rfl, .ok rfl rfl, .error _, .ok rfl rfl]

theorem decodeJump_sound : DecodesSoundly (word2Reg 0b1010#4 d a n6) (decodeJump .illegal n6 d a) := by
  unfold decodeJump
  split
  next hn => obtain rfl : n6 = 0b000000#6 := BitVec.eq_of_toNat_eq hn; exact .ok rfl rfl
  next hn => obtain rfl : n6 = 0b000001#6 := BitVec.eq_of_toNat_eq hn; exact .ok rfl rfl
  next hn =>
    obtain rfl : n6 = 0b000011#6 := BitVec.eq_of_toNat_eq hn
    exact .of_fixedField rfl fun hd => by rw [beq_iff_eq.mp hd]; rfl
  next hn => obtain rfl : n6 = 0b000100#6 := BitVec.eq_of_toNat_eq hn; exact .ok rfl rfl
  next => exact .error _

/-- The special instructions without operands: both register fields are fixed. -/
theorem DecodesSoundly.of_fixedFields {d0 a0 : BitVec 3} (hwf : WellFormed i = true)
    (henc : encode i = word2Reg 0b1111#4 d0 a0 n6) :
    DecodesSoundly (word2Reg 0b1111#4 d a n6) (withFixedField .illegal (d == d0 && a == a0) i) :=
  .of_fixedField hwf fun hda => by
    obtain ⟨hd, ha⟩ := Bool.and_eq_true_iff.mp hda
    rw [henc, beq_iff_eq.mp hd, beq_iff_eq.mp ha]

theorem decodeSpecial_sound : DecodesSoundly (word2Reg 0b1111#4 d a n6) (decodeSpecial .illegal n6 d a) := by
  unfold decodeSpecial
  split
  next hn => obtain rfl : n6 = 0b100000#6 := BitVec.eq_of_toNat_eq hn; exact .of_fixedFields d a _ rfl rfl
  next hn => obtain rfl : n6 = 0b100001#6 := BitVec.eq_of_toNat_eq hn; exact .of_fixedFields d a _ rfl rfl
  next hn => obtain rfl : n6 = 0b100100#6 := BitVec.eq_of_toNat_eq hn; exact .of_fixedFields d a _ rfl rfl
  next hn =>
    obtain rfl : n6 = 0b101000#6 := BitVec.eq_of_toNat_eq hn
    exact .of_fixedField rfl fun ha => by rw [beq_iff_eq.mp ha]; rfl
  next hn => obtain rfl : n6 = 0b101100#6 := BitVec.eq_of_toNat_eq hn; exact .ok rfl rfl
  next hn => obtain rfl : n6 = 0b110000#6 := BitVec.eq_of_toNat_eq hn; exact .ok rfl rfl
  next hn => obtain rfl : n6 = 0b111111#6 := BitVec.eq_of_toNat_eq hn; exact .of_fixedFields d a _ rfl rfl
  next => exact .error _

/-- A displacement read from its field is in range, and is written back as that field. -/
theorem DecodesSoundly.displacement (c : BitVec 4) (hwf : WellFormed i = fitsField6 n6.toInt)
    (henc : encode i = word2Reg c d a (BitVec.ofInt 6 n6.toInt)) : DecodesSoundly (word2Reg c d a n6) (.ok i) :=
  .ok (hwf.trans (fitsField6_toInt n6)) (by rw [henc, BitVec.ofInt_toInt])

theorem DecodesSoundly.displacement8 (c : BitVec 4) (e : BitVec 1) (n8 : BitVec 8)
    (hwf : WellFormed i = fitsField8 n8.toInt)
    (henc : encode i = word1Reg c d e (BitVec.ofInt 8 n8.toInt)) : DecodesSoundly (word1Reg c d e n8) (.ok i) :=
  .ok (hwf.trans (fitsField8_toInt n8)) (by rw [henc, BitVec.ofInt_toInt])

end Sound

/-- The decoder is right on every word, by the operation code. -/
theorem decodeWith_illegal_sound (w : Word) : DecodesSoundly w (decodeWith .illegal w) := by
  obtain h | h | h | h | h | h | h | h | h | h | h | h | h | h | h | h := bitVec4_cases (slice w 12 4)
  · obtain ⟨d, a, f, b, rfl⟩ := exists_word3Reg h; rw [decodeWith_logic]; exact decodeLogic_sound d a f b
  · obtain ⟨d, a, f, b, rfl⟩ := exists_word3Reg h; rw [decodeWith_compare]; exact decodeCompare_sound d a f b
  · obtain ⟨d, a, n, rfl⟩ := exists_word2Reg h; rw [decodeWith_addi]; exact .displacement d a n _ rfl rfl
  · obtain ⟨d, a, n, rfl⟩ := exists_word2Reg h; rw [decodeWith_ld]; exact .displacement d a n _ rfl rfl
  · obtain ⟨d, a, n, rfl⟩ := exists_word2Reg h; rw [decodeWith_st]; exact .displacement d a n _ rfl rfl
  · obtain ⟨d, e, n, rfl⟩ := exists_word1Reg h
    obtain rfl | rfl := bitVec1_cases e
    · rw [decodeWith_movi]; exact .displacement8 d _ _ n rfl rfl
    · rw [decodeWith_movhi]; exact .ok rfl rfl
  · obtain ⟨d, e, n, rfl⟩ := exists_word1Reg h
    obtain rfl | rfl := bitVec1_cases e
    · rw [decodeWith_bz]; exact .displacement8 d _ _ n rfl rfl
    · rw [decodeWith_bnz]; exact .displacement8 d _ _ n rfl rfl
  · obtain ⟨d, e, n, rfl⟩ := exists_word1Reg h
    obtain rfl | rfl := bitVec1_cases e
    · rw [decodeWith_inp]; exact .ok rfl rfl
    · rw [decodeWith_out]; exact .ok rfl rfl
  · obtain ⟨d, a, f, b, rfl⟩ := exists_word3Reg h; rw [decodeWith_mulDiv]; exact decodeMulDiv_sound d a f b
  · obtain ⟨d, a, f, b, rfl⟩ := exists_word3Reg h; rw [decodeWith_float]; exact decodeFloat_sound d a f b
  · obtain ⟨d, a, n, rfl⟩ := exists_word2Reg h; rw [decodeWith_jump]; exact decodeJump_sound d a n
  · obtain ⟨d, a, n, rfl⟩ := exists_word2Reg h; rw [decodeWith_ldf]; exact .displacement d a n _ rfl rfl
  · obtain ⟨d, a, n, rfl⟩ := exists_word2Reg h; rw [decodeWith_stf]; exact .displacement d a n _ rfl rfl
  · obtain ⟨d, a, n, rfl⟩ := exists_word2Reg h; rw [decodeWith_ldb]; exact .displacement d a n _ rfl rfl
  · obtain ⟨d, a, n, rfl⟩ := exists_word2Reg h; rw [decodeWith_stb]; exact .displacement d a n _ rfl rfl
  · obtain ⟨d, a, n, rfl⟩ := exists_word2Reg h; rw [decodeWith_special]; exact decodeSpecial_sound d a n

/-- Settles O3: the policy of the machine is `illegal`. -/
theorem decodedWordIsItsEncoding : Obligations.DecodedWordIsItsEncoding :=
  fun w i h => decodeWith_illegal_sound w i h

/-! ## The rows of the opcode table -/

/-- The word has the fixed bits of the row of `i`. -/
def MatchesRow (w : Word) (i : Instr) : Prop := w &&& (rowOf i).mask = (rowOf i).pattern

/-- The word of an instruction matches its own row. -/
theorem encode_matchesRow (i : Instr) : MatchesRow (encode i) i := by
  cases i with
  | not d a => exact Laws.EncodeMatchesRow.not d a
  | and | or | xor | add | sub | sha | shl | cmplt | cmple | cmpeq | cmpltu | cmpleu | mul | mulh | mulhu | div | divu
  | addf | subf | mulf | divf | cmpltf | cmplef | cmpeqf => exact Laws.EncodeMatchesRow.mask_3reg ..
  | addi | ld | st | ldf | stf | ldb | stb => exact Laws.EncodeMatchesRow.mask_2reg ..
  | movi | movhi | bz | bnz | inp | out => exact Laws.EncodeMatchesRow.mask_1reg ..
  | jz | jnz | jal | rds | wrs => exact Laws.EncodeMatchesRow.mask_2reg_fn ..
  | jmp a => exact Laws.EncodeMatchesRow.jmp a
  | getiid d => exact Laws.EncodeMatchesRow.getiid d
  | ei => exact Laws.EncodeMatchesRow.ei
  | di => exact Laws.EncodeMatchesRow.di
  | reti => exact Laws.EncodeMatchesRow.reti
  | halt => exact Laws.EncodeMatchesRow.halt

section Masks

variable {w m p : Word}

/-- A field the mask covers is the field of the pattern. -/
theorem slice_of_mask (h : w &&& m = p) {lo len : Nat} (hm : slice m lo len = BitVec.allOnes len) :
    slice w lo len = slice p lo len := by
  have hand : slice (w &&& m) lo len = slice w lo len &&& slice m lo len := BitVec.extractLsb'_and
  rw [← h, hand, hm, BitVec.and_allOnes]

theorem word3Reg_of_mask (h : w &&& 0xF038#16 = p) :
    w = word3Reg (slice p 12 4) (slice w 9 3) (slice w 6 3) (slice p 3 3) (slice w 0 3) := by
  rw [← slice_of_mask h (lo := 12) rfl, ← slice_of_mask h (lo := 3) rfl, word3Reg_slices]

/-- The mask of NOT, whose `bbb` is fixed. -/
theorem word3Reg_of_mask_b (h : w &&& 0xF03F#16 = p) :
    w = word3Reg (slice p 12 4) (slice w 9 3) (slice w 6 3) (slice p 3 3) (slice p 0 3) := by
  rw [← slice_of_mask h (lo := 12) rfl, ← slice_of_mask h (lo := 3) rfl, ← slice_of_mask h (lo := 0) rfl,
    word3Reg_slices]

theorem word2Reg_of_mask (h : w &&& 0xF000#16 = p) :
    w = word2Reg (slice p 12 4) (slice w 9 3) (slice w 6 3) (slice w 0 6) := by
  rw [← slice_of_mask h (lo := 12) rfl, word2Reg_slices]

theorem word2Reg_of_mask_fn (h : w &&& 0xF03F#16 = p) :
    w = word2Reg (slice p 12 4) (slice w 9 3) (slice w 6 3) (slice p 0 6) := by
  rw [← slice_of_mask h (lo := 12) rfl, ← slice_of_mask h (lo := 0) rfl, word2Reg_slices]

/-- The mask of JMP, whose I[11:9] is fixed. -/
theorem word2Reg_of_mask_hi_fn (h : w &&& 0xFE3F#16 = p) :
    w = word2Reg (slice p 12 4) (slice p 9 3) (slice w 6 3) (slice p 0 6) := by
  rw [← slice_of_mask h (lo := 12) rfl, ← slice_of_mask h (lo := 9) rfl, ← slice_of_mask h (lo := 0) rfl,
    word2Reg_slices]

/-- The mask of GETIID, whose I[8:6] is fixed. -/
theorem word2Reg_of_mask_a_fn (h : w &&& 0xF1FF#16 = p) :
    w = word2Reg (slice p 12 4) (slice w 9 3) (slice p 6 3) (slice p 0 6) := by
  rw [← slice_of_mask h (lo := 12) rfl, ← slice_of_mask h (lo := 6) rfl, ← slice_of_mask h (lo := 0) rfl,
    word2Reg_slices]

theorem word1Reg_of_mask (h : w &&& 0xF100#16 = p) :
    w = word1Reg (slice p 12 4) (slice w 9 3) (slice p 8 1) (slice w 0 8) := by
  rw [← slice_of_mask h (lo := 12) rfl, ← slice_of_mask h (lo := 8) rfl, word1Reg_slices]

theorem eq_of_mask_all (h : w &&& 0xFFFF#16 = p) : w = p := (BitVec.and_allOnes (x := w)).symm.trans h

end Masks

/-- A word that matches the row of `i` decodes, to an instruction of the same mnemonic and row: its fields under the mask are
those of the pattern, and the others name operands. -/
theorem decode_of_matchesRow {w : Word} {i : Instr} (h : MatchesRow w i) :
    ∃ j, decode w = .ok j ∧ j.ctorIdx = i.ctorIdx ∧ rowOf j = rowOf i := by
  cases i
  all_goals simp only [MatchesRow, rowOf] at h
  case and | or | xor | add | sub | sha | shl =>
    exact ⟨_, (congrArg decode (word3Reg_of_mask h)).trans (decodeWith_logic ..), rfl, rfl⟩
  case not => exact ⟨_, (congrArg decode (word3Reg_of_mask_b h)).trans (decodeWith_logic ..), rfl, rfl⟩
  case cmplt | cmple | cmpeq | cmpltu | cmpleu =>
    exact ⟨_, (congrArg decode (word3Reg_of_mask h)).trans (decodeWith_compare ..), rfl, rfl⟩
  case addi => exact ⟨_, (congrArg decode (word2Reg_of_mask h)).trans (decodeWith_addi ..), rfl, rfl⟩
  case ld => exact ⟨_, (congrArg decode (word2Reg_of_mask h)).trans (decodeWith_ld ..), rfl, rfl⟩
  case st => exact ⟨_, (congrArg decode (word2Reg_of_mask h)).trans (decodeWith_st ..), rfl, rfl⟩
  case movi => exact ⟨_, (congrArg decode (word1Reg_of_mask h)).trans (decodeWith_movi ..), rfl, rfl⟩
  case movhi => exact ⟨_, (congrArg decode (word1Reg_of_mask h)).trans (decodeWith_movhi ..), rfl, rfl⟩
  case bz => exact ⟨_, (congrArg decode (word1Reg_of_mask h)).trans (decodeWith_bz ..), rfl, rfl⟩
  case bnz => exact ⟨_, (congrArg decode (word1Reg_of_mask h)).trans (decodeWith_bnz ..), rfl, rfl⟩
  case inp => exact ⟨_, (congrArg decode (word1Reg_of_mask h)).trans (decodeWith_inp ..), rfl, rfl⟩
  case out => exact ⟨_, (congrArg decode (word1Reg_of_mask h)).trans (decodeWith_out ..), rfl, rfl⟩
  case mul | mulh | mulhu | div | divu =>
    exact ⟨_, (congrArg decode (word3Reg_of_mask h)).trans (decodeWith_mulDiv ..), rfl, rfl⟩
  case addf | subf | mulf | divf | cmpltf | cmplef | cmpeqf =>
    exact ⟨_, (congrArg decode (word3Reg_of_mask h)).trans (decodeWith_float ..), rfl, rfl⟩
  case jz | jnz | jal => exact ⟨_, (congrArg decode (word2Reg_of_mask_fn h)).trans (decodeWith_jump ..), rfl, rfl⟩
  case jmp => exact ⟨_, (congrArg decode (word2Reg_of_mask_hi_fn h)).trans (decodeWith_jump ..), rfl, rfl⟩
  case ldf => exact ⟨_, (congrArg decode (word2Reg_of_mask h)).trans (decodeWith_ldf ..), rfl, rfl⟩
  case stf => exact ⟨_, (congrArg decode (word2Reg_of_mask h)).trans (decodeWith_stf ..), rfl, rfl⟩
  case ldb => exact ⟨_, (congrArg decode (word2Reg_of_mask h)).trans (decodeWith_ldb ..), rfl, rfl⟩
  case stb => exact ⟨_, (congrArg decode (word2Reg_of_mask h)).trans (decodeWith_stb ..), rfl, rfl⟩
  case rds | wrs => exact ⟨_, (congrArg decode (word2Reg_of_mask_fn h)).trans (decodeWith_special ..), rfl, rfl⟩
  case getiid => exact ⟨_, (congrArg decode (word2Reg_of_mask_a_fn h)).trans (decodeWith_special ..), rfl, rfl⟩
  case ei => exact ⟨.ei, by rw [eq_of_mask_all h]; rfl, rfl, rfl⟩
  case di => exact ⟨.di, by rw [eq_of_mask_all h]; rfl, rfl, rfl⟩
  case reti => exact ⟨.reti, by rw [eq_of_mask_all h]; rfl, rfl, rfl⟩
  case halt => exact ⟨.halt, by rw [eq_of_mask_all h]; rfl, rfl, rfl⟩

/-- A word that decodes is the encoding of its instruction, and so matches its row. -/
theorem matchesRow_of_decode {w : Word} {i : Instr} (h : decode w = .ok i) : MatchesRow w i := by
  obtain ⟨-, henc⟩ := decodedWordIsItsEncoding w i h
  rw [← henc]
  exact encode_matchesRow i

/-- Settles O4: matching a row and decoding imply each other. -/
theorem decodeAcceptsExactlyTheTable : Obligations.DecodeAcceptsExactlyTheTable := by
  refine fun w => ⟨⟨fun ⟨i, h⟩ => ⟨i, matchesRow_of_decode h⟩, fun ⟨i, h⟩ => ?_⟩, fun i h => matchesRow_of_decode h⟩
  obtain ⟨j, hj, -⟩ := decode_of_matchesRow (i := i) h
  exact ⟨j, hj⟩

/-- Settles O5: both rows are that of the one instruction the word decodes to. -/
theorem opcodeRowsAreDisjoint : Obligations.OpcodeRowsAreDisjoint := by
  intro i j w hi hj
  obtain ⟨k, hk, hki, hrow⟩ := decode_of_matchesRow (i := i) hi
  obtain ⟨l, hl, hlj, hrow'⟩ := decode_of_matchesRow (i := j) hj
  obtain rfl : k = l := Except.ok.inj (hk.symm.trans hl)
  exact ⟨hki.symm.trans hlj, hrow.symm.trans hrow'⟩

/-! ## Fields without meaning, and unused codes -/

/-- One field with its fixed value `v`: the two policies. -/
theorem withFixedField_policies (x v : BitVec 3) (i : Instr) : withFixedField .ignore (x == v) i = .ok i ∧
    withFixedField .illegal (x == v) i = if x = v then .ok i else .error .fixedField := by
  simp [withFixedField_ignore, withFixedField_illegal]

/-- Two fields with their fixed values: the two policies. -/
theorem withFixedFields_policies (x y v : BitVec 3) (i : Instr) :
    withFixedField .ignore (x == v && y == v) i = .ok i ∧
    withFixedField .illegal (x == v && y == v) i = if x = v ∧ y = v then .ok i else .error .fixedField := by
  simp [withFixedField_ignore, withFixedField_illegal]

/-- Settles O6. HALT asks for its fixed field under both policies. -/
theorem fixedFieldPolicyDecides : Obligations.FixedFieldPolicyDecides := by
  refine ⟨fun d a x => ?_, fun a x => ?_, fun d x => ?_, fun f i hfi x y => ?_, fun p x y => ?_⟩
  · rw [decodeWith_logic, decodeWith_logic]; exact withFixedField_policies x 0 _
  · rw [decodeWith_jump, decodeWith_jump]; exact withFixedField_policies x 0 _
  · rw [decodeWith_special, decodeWith_special]; exact withFixedField_policies x 0 _
  · rw [decodeWith_special, decodeWith_special]
    simp only [List.mem_cons, Prod.mk.injEq, List.not_mem_nil, or_false] at hfi
    obtain ⟨rfl, rfl⟩ | ⟨rfl, rfl⟩ | ⟨rfl, rfl⟩ := hfi <;> exact withFixedFields_policies x y 0 _
  · obtain ⟨-, hillegal⟩ := withFixedFields_policies x y 7 .halt
    rw [decodeWith_special]; exact hillegal

/-- The function codes of operation code 1111 that are in use (30_encoding.md R103). -/
def specialCodes : List (BitVec 6) :=
  [0b100000#6, 0b100001#6, 0b100100#6, 0b101000#6, 0b101100#6, 0b110000#6, 0b111111#6]

theorem decodeSpecial_of_unused {fn : BitVec 6} (h : fn ∉ specialCodes) (p : FixedFieldPolicy) (hi a : BitVec 3) :
    decodeSpecial p fn hi a = .error .reservedFunction := by
  have unused (c : BitVec 6) (hc : c ∈ specialCodes) : fn.toNat ≠ c.toNat := fun heq =>
    h (BitVec.eq_of_toNat_eq heq ▸ hc)
  unfold decodeSpecial
  split
  next hn => exact absurd hn (unused 0b100000#6 (by decide))
  next hn => exact absurd hn (unused 0b100001#6 (by decide))
  next hn => exact absurd hn (unused 0b100100#6 (by decide))
  next hn => exact absurd hn (unused 0b101000#6 (by decide))
  next hn => exact absurd hn (unused 0b101100#6 (by decide))
  next hn => exact absurd hn (unused 0b110000#6 (by decide))
  next hn => exact absurd hn (unused 0b111111#6 (by decide))
  next => rfl

theorem decode_of_unused_special {w : Word} (hop : slice w 12 4 = 0b1111#4) (hfn : slice w 0 6 ∉ specialCodes) :
    decode w = .error .reservedFunction := by
  obtain ⟨d, a, n, rfl⟩ := exists_word2Reg hop
  rw [slice_word2Reg_n] at hfn
  exact (decodeWith_special ..).trans (decodeSpecial_of_unused hfn _ d a)

end Sys2Proof

namespace Sys2Proof.Machine

/-! ## Illegal instructions -/

theorem step_of_undefined {s : State} {r : DecodeReject} (hat : AtInstruction s) (heven : isOdd s.pc = false)
    (hdec : decode (s.readWord s.pc) = .error r) :
    step s = .next (endStep (trapEntry .illegalInstruction (s.pc + 2) (advancePc s))) := by
  rw [step_of_atInstruction hat, instructionStep_of_even heven, runWord_of_decode_error hdec, raise, onNext_next,
    pc_advancePc]

/-- Settles O10: the step is the trap entry alone, with `pc` already at `pcup`. -/
theorem undefinedWordsAreIllegal : Obligations.UndefinedWordsAreIllegal := by
  intro s r hat heven hdec
  have henters : EntersHandler .illegalInstruction (s.pc + 2) s _ :=
    (trapEntry_entersHandler .illegalInstruction (s.pc + 2) (advancePc s)).of_advancePc
  exact ⟨_, henters, henters.code, step_of_undefined hat heven hdec⟩

/-- Settles O9: such a word does not decode. -/
theorem unusedSpecialCodesAreIllegal : Obligations.UnusedSpecialCodesAreIllegal :=
  fun s hat heven hop hfn => undefinedWordsAreIllegal s _ hat heven (decode_of_unused_special hop hfn)

/-! ## What one write leaves unchanged -/

section Frames

variable (s : State)

theorem onlyChanges_setR (d : GReg) (v : Word) : OnlyChanges { gs := [d] } s (s.setR d v) where
  gprs r hr := R_setR_other s r d v (by simpa using hr)
  fprs _ _ := rfl
  sprs _ _ := rfl
  memory _ _ := rfl
  outputs _ _ := rfl
  history := by simp
  halted := by simp
  env := rfl
  script := rfl
  tick := rfl

theorem onlyChanges_setF (d : FReg) (v : Word) : OnlyChanges { fs := [d] } s (s.setF d v) where
  gprs _ _ := rfl
  fprs r hr := F_setF_other s r d v (by simpa using hr)
  sprs _ _ := rfl
  memory _ _ := rfl
  outputs _ _ := rfl
  history := by simp
  halted := by simp
  env := rfl
  script := rfl
  tick := rfl

theorem onlyChanges_setS (x : SReg) (v : Word) : OnlyChanges { ss := [x] } s (s.setS x v) where
  gprs _ _ := rfl
  fprs _ _ := rfl
  sprs y hy := S_setS_other s y x v (by simpa using hy)
  memory _ _ := rfl
  outputs _ _ := rfl
  history := by simp
  halted := by simp
  env := rfl
  script := rfl
  tick := rfl

end Frames

/-- The frame says nothing of the PC. -/
theorem OnlyChanges.setPc {w : Touched} {s t : State} (h : OnlyChanges w s t) (target : Word) :
    OnlyChanges w s (t.setPc target) :=
  ⟨h.gprs, h.fprs, h.sprs, h.memory, h.outputs, h.history, h.halted, h.env, h.script, h.tick⟩

/-! ## Division -/

/-- The remainder of the truncated quotient is smaller than the divisor in magnitude. -/
theorem abs_sub_tdiv_mul_lt (x : Int) {y : Int} (hy : y ≠ 0) : |x - x.tdiv y * y| < |y| := by
  rw [Int.mul_comm, ← Int.tmod_def, Int.abs_eq_natAbs, Int.abs_eq_natAbs, Int.natAbs_tmod]
  exact_mod_cast Nat.mod_lt _ (Int.natAbs_pos.mpr hy)

/-- The remainder of the truncated quotient has the sign of the dividend. -/
theorem sub_tdiv_mul_mul_nonneg (x y : Int) : 0 ≤ (x - x.tdiv y * y) * x := by
  rw [Int.mul_comm (x.tdiv y), ← Int.tmod_def]
  rcases Int.le_total 0 x with hx | hx
  · exact Int.mul_nonneg (Int.tmod_nonneg y hx) hx
  · have hneg : 0 ≤ -x.tmod y := Int.neg_tmod x y ▸ Int.tmod_nonneg y (by omega)
    exact Int.mul_nonneg_of_nonpos_of_nonpos (by omega) hx

/-- Only -2^15 / -1 has a quotient that does not fit in 16 bits. -/
theorem toInt_ofInt_tdiv {x y : Word} (h : ¬ (x = 0x8000#16 ∧ y = 0xFFFF#16)) :
    (BitVec.ofInt 16 (x.toInt.tdiv y.toInt)).toInt = x.toInt.tdiv y.toInt := by
  rw [BitVec.toInt_ofInt, ← BitVec.toInt_sdiv, BitVec.toInt_sdiv_of_ne_or_ne x y (not_and_or.mp h)]

theorem toNat_ofNat_div (x y : Word) : (BitVec.ofNat 16 (x.toNat / y.toNat)).toNat = x.toNat / y.toNat := by
  rw [BitVec.toNat_ofNat]
  exact Nat.mod_eq_of_lt (Nat.lt_of_le_of_lt (Nat.div_le_self _ _) x.isLt)

section Divide

variable {s : State} {a b : GReg}

theorem exec_div_of_ne (hb : s.R b ≠ 0) (hov : ¬ (s.R a = 0x8000#16 ∧ s.R b = 0xFFFF#16)) (d : GReg) :
    exec (.div d a b) s = .next (s.setR d (BitVec.ofInt 16 ((s.R a).toInt.tdiv (s.R b).toInt))) :=
  (if_neg hb).trans (if_neg hov)

theorem exec_divu_of_ne (hb : s.R b ≠ 0) (d : GReg) :
    exec (.divu d a b) s = .next (s.setR d (BitVec.ofNat 16 ((s.R a).toNat / (s.R b).toNat))) :=
  if_neg hb

end Divide

/-- Settles O31. -/
theorem divideResults : Obligations.DivideResults := by
  intro d a b s
  refine ⟨rfl, fun hb hov => ⟨_, exec_div_of_ne hb hov d, ?_, ?_, rfl, onlyChanges_setR s d _⟩,
    rfl, fun hb => ⟨_, exec_divu_of_ne hb d, ?_, ?_, rfl, onlyChanges_setR s d _⟩⟩
  · rw [R_setR_same, toInt_ofInt_tdiv hov]
    exact abs_sub_tdiv_mul_lt _ fun h0 => hb (BitVec.eq_of_toInt_eq h0)
  · rw [R_setR_same, toInt_ofInt_tdiv hov]
    exact sub_tdiv_mul_mul_nonneg _ _
  · rw [R_setR_same, toNat_ofNat_div]
    exact Nat.div_mul_le_self _ _
  · rw [R_setR_same, toNat_ofNat_div, Nat.mul_comm]
    exact Nat.lt_mul_div_succ _ (Nat.pos_of_ne_zero fun h0 => hb (BitVec.eq_of_toNat_eq h0))

/-! ## Floating-point values -/

theorem completes_finishFloat_value {o : FloatOutcome} {v : Word} (h : o = .value v) (d : FReg) (s : State) :
    Completes (finishFloat d o s) (fun t => t.F d = v ∧ t.pc = s.pc ∧ OnlyChanges { fs := [d] } s t) := by
  subst h
  exact ⟨_, rfl, F_setF_same s d v, rfl, onlyChanges_setF s d v⟩

/-- Settles O38: the four operations end alike. -/
theorem floatValueIsWritten : Obligations.FloatValueIsWritten :=
  fun d _ _ _ s => ⟨rfl, fun h => completes_finishFloat_value h d s, rfl, fun h => completes_finishFloat_value h d s,
    rfl, fun h => completes_finishFloat_value h d s, rfl, fun h => completes_finishFloat_value h d s⟩

/-! ## Branches and JAL -/

theorem fitsField8_iff (n : Int) : fitsField8 n = true ↔ -128 ≤ n ∧ n ≤ 127 := by
  simp [fitsField8]

/-- A field in range is scaled without a carry out of the 16 bits. -/
theorem toInt_scaled {n : Int} (h : -128 ≤ n ∧ n ≤ 127) : (scaled n).toInt = 2 * n := by
  obtain ⟨hlo, hhi⟩ := h
  have htwo : scaled n = BitVec.ofInt 16 (2 * n) := by
    rw [scaled, sext16, BitVec.shiftLeft_eq_mul_twoPow, Int.mul_comm, BitVec.ofInt_mul]
    rfl
  rw [htwo, BitVec.toInt_ofInt]
  exact Int.bmod_eq_of_le (by norm_num; omega) (by norm_num; omega)

theorem asmBranch_eq_some (label branch : Word) (n : Int) :
    asmBranch label branch = some n ↔ (-128 ≤ n ∧ n ≤ 127) ∧ (label - (branch + 2)).toInt = 2 * n := by
  simp only [asmBranch, fitsField8_iff, Option.ite_none_right_eq_some, Option.some.injEq]
  omega

theorem branchTarget_eq_iff (pcup label : Word) (n : Int) : branchTarget pcup n = label ↔ label - pcup = scaled n := by
  rw [branchTarget, sub_eq_iff_eq_add', eq_comm]

/-- Settles O53: a field in range reaches the label exactly if twice the field is the distance from `pcup` to the label. -/
theorem branchFieldReachesItsLabel : Obligations.BranchFieldReachesItsLabel := by
  intro label branch n
  rw [asmBranch_eq_some, branchTarget_eq_iff]
  refine and_congr_right fun hn => ?_
  rw [← toInt_scaled hn, BitVec.toInt_inj]

/-- Settles O52: the target is read before the link is written. -/
theorem jalLinksAndJumps : Obligations.JalLinksAndJumps :=
  fun d _ s => ⟨rfl, _, rfl, R_setR_same s d s.pc, rfl, (onlyChanges_setR s d s.pc).setPc _⟩

/-! ## RDS and WRS -/

/-- S2 keeps the four low bits of what is written to it, and the others keep all (10_state.md R33). -/
theorem sregStored_eq (x : SReg) (v : Word) :
    sregStored x v = if x = S2 then (v.extractLsb' 0 4).zeroExtend 16 else v := by
  by_cases hx : x = S2
  · subst hx
    rw [if_pos rfl]
    apply word_ext
    intro i hi
    interval_cases i <;> simp [sregStored, S2]
  · have hnum : x.num ≠ 2 := fun h => hx (congrArg SReg.mk h)
    rw [sregStored_other x v hnum, if_neg hx]

/-- Settles O58. -/
theorem specialRegisterMoves : Obligations.SpecialRegisterMoves :=
  fun g x s => ⟨rfl, ⟨_, rfl, R_setR_same s g _, rfl, onlyChanges_setR s g _⟩,
    rfl, ⟨_, rfl, (S_setS_same s x _).trans (sregStored_eq x _), rfl, onlyChanges_setS s x _⟩⟩

end Sys2Proof.Machine

/-! PROOFS of the family 40_arith_logic.md. Each of these instructions writes one word to its destination and nothing else; what
that word is, as a bit vector, a natural or an integer, is then a fact about words alone. -/

namespace Sys2Proof.Machine

/-! ## One write to a general register -/

/-- The answer that only writes `v` to R[d]: what `Q` says has to follow from the new value of R[d]. -/
theorem completes_of_setR {s : State} {d : GReg} {v : Word} {r : Result} {Q : State → Prop}
    (hr : r = .next (s.setR d v)) (hQ : ∀ t, t.R d = v → Q t) :
    Completes r (fun t => Q t ∧ t.pc = s.pc ∧ OnlyChanges { gs := [d] } s t) :=
  ⟨_, hr, hQ _ (R_setR_same s d v), pc_setR s d v, onlyChanges_setR s d v⟩

/-! ## Shifts -/

/-- The amount is the five low bits of Rb in two's complement (40_arith_logic.md R129). -/
theorem shiftAmount_eq (y : Word) :
    shiftAmount y = if y.toNat % 32 < 16 then (y.toNat % 32 : Int) else (y.toNat % 32 : Int) - 32 := by
  have hlow : (y.extractLsb' 0 5).toNat = y.toNat % 32 := BitVec.extractLsb'_toNat 0 5 y
  rw [shiftAmount, BitVec.toInt_eq_toNat_cond, hlow]
  split <;> split <;> omega

theorem toNat_shiftLeft_word (x : Word) (k : Nat) : (x <<< k).toNat = x.toNat * 2 ^ k % 65536 := by
  rw [BitVec.toNat_shiftLeft, Nat.shiftLeft_eq]

/-- The floor of a right shift always fits: it is the shift of the bit vector with its sign bit. -/
theorem toInt_ofInt_fdiv_two_pow (x : Word) (k : Nat) :
    (BitVec.ofInt 16 (x.toInt.fdiv (2 ^ k))).toInt = x.toInt.fdiv (2 ^ k) := by
  have hshift : x.toInt.fdiv (2 ^ k) = x.toInt >>> k := by
    rw [Int.fdiv_eq_ediv_of_nonneg _ (by positivity), Int.shiftRight_eq_div_pow, Nat.cast_pow, Nat.cast_ofNat]
  rw [hshift, ← BitVec.sshiftRight_eq, BitVec.toInt_sshiftRight]

/-- A quotient of a word's natural, by a natural of any size, fits in a word. -/
theorem toNat_ofNat_div_nat (x : Word) (m : Nat) : (BitVec.ofNat 16 (x.toNat / m)).toNat = x.toNat / m := by
  rw [BitVec.toNat_ofNat]
  exact Nat.mod_eq_of_lt (Nat.lt_of_le_of_lt (Nat.div_le_self _ _) x.isLt)

/-- The arithmetic shift by a signed amount (40_arith_logic.md R127). -/
theorem arithShift_value (x : Word) (n : Int) :
    if 0 ≤ n then (arithShift x n).toNat = x.toNat * 2 ^ n.toNat % 65536
    else (arithShift x n).toInt = x.toInt.fdiv (2 ^ (-n).toNat) := by
  rw [arithShift]
  split
  · exact toNat_shiftLeft_word x n.toNat
  · exact toInt_ofInt_fdiv_two_pow x (-n).toNat

/-- The logical shift by a signed amount (40_arith_logic.md R128). -/
theorem logicShift_value (x : Word) (n : Int) :
    if 0 ≤ n then (logicShift x n).toNat = x.toNat * 2 ^ n.toNat % 65536
    else (logicShift x n).toNat = x.toNat / 2 ^ (-n).toNat := by
  rw [logicShift]
  split
  · exact toNat_shiftLeft_word x n.toNat
  · exact toNat_ofNat_div_nat x (2 ^ (-n).toNat)

/-- Settles O29: both shifts are by `n`, the five low bits of Rb. -/
theorem shiftResults : Obligations.ShiftResults := by
  intro d a b s n hn
  obtain rfl : n = shiftAmount (s.R b) := hn.trans (shiftAmount_eq (s.R b)).symm
  refine ⟨rfl, completes_of_setR rfl fun t ht => ?_, rfl, completes_of_setR rfl fun t ht => ?_⟩
  · rw [ht]
    exact arithShift_value (s.R a) _
  · rw [ht]
    exact logicShift_value (s.R a) _

/-! ## Products -/

theorem toNat_highHalf (p : BitVec 32) : (highHalf p).toNat = p.toNat / 65536 := by
  have hlt := p.isLt
  rw [highHalf, BitVec.extractLsb'_toNat, Nat.shiftRight_eq_div_pow]
  omega

/-- The high half of an integer is its floor by 2^16: the sign bit is in the high half. -/
theorem toInt_highHalf (p : BitVec 32) : (highHalf p).toInt = p.toInt.fdiv 65536 := by
  rw [Int.fdiv_eq_ediv_of_nonneg _ (by norm_num), BitVec.toInt_eq_toNat_cond, BitVec.toInt_eq_toNat_cond p, toNat_highHalf]
  split <;> split <;> omega

/-- The product of two integers of 16 bits fits in 32 bits. -/
theorem toInt_ofInt_mul (x y : Word) : (BitVec.ofInt 32 (x.toInt * y.toInt)).toInt = x.toInt * y.toInt := by
  have hlo : -2 ^ 30 ≤ x.toInt * y.toInt := BitVec.le_toInt_mul_toInt
  have hhi : x.toInt * y.toInt ≤ 2 ^ 30 := BitVec.toInt_mul_toInt_le
  exact BitVec.toInt_ofInt_eq_self (by norm_num) (by norm_num; omega) (by norm_num; omega)

/-- The product of two naturals of 16 bits fits in 32 bits. -/
theorem toNat_ofNat_mul (x y : Word) : (BitVec.ofNat 32 (x.toNat * y.toNat)).toNat = x.toNat * y.toNat :=
  (BitVec.toNat_ofNat _ _).trans (Nat.mod_eq_of_lt BitVec.toNat_mul_toNat_lt)

/-- Settles O30: the exact product fits in the 32 bits of which a half is taken. -/
theorem multiplyResults : Obligations.MultiplyResults := by
  intro d a b s
  refine ⟨rfl, completes_of_setR rfl fun t ht => ?_, rfl, completes_of_setR rfl fun t ht => ?_,
    rfl, completes_of_setR rfl fun t ht => ?_⟩
  · rw [ht, BitVec.toNat_ofNat]
  · rw [ht, toInt_highHalf, toInt_ofInt_mul]
  · rw [ht, toNat_highHalf, toNat_ofNat_mul]

/-! ## Bitwise operations, sum and difference -/

/-- Settles O27: a negated bit is said for the 16 bits there are. -/
theorem logicResults : Obligations.LogicResults := by
  intro d a b s
  refine ⟨rfl, completes_of_setR rfl fun t ht k => ?_, rfl, completes_of_setR rfl fun t ht k => ?_,
    rfl, completes_of_setR rfl fun t ht k => ?_, rfl, completes_of_setR rfl fun t ht k hk => ?_⟩
  · rw [ht, BitVec.getLsbD_and]
  · rw [ht, BitVec.getLsbD_or]
  · rw [ht, BitVec.getLsbD_xor]
  · rw [ht, BitVec.getLsbD_not, decide_eq_true hk, Bool.true_and]

/-- The difference of two words is that of their naturals modulo 2^16. -/
theorem toNat_sub_word (x y : Word) : ((x - y).toNat : Int) = (x.toNat - y.toNat : Int) % 65536 := by
  have hy := y.isLt
  rw [BitVec.toNat_sub]
  omega

/-- Settles O28: both are the arithmetic of words. -/
theorem addSubResults : Obligations.AddSubResults := by
  intro d a b s
  refine ⟨rfl, completes_of_setR rfl fun t ht => ?_, rfl, completes_of_setR rfl fun t ht => ?_⟩
  · rw [ht, BitVec.toNat_add]
  · rw [ht, toNat_sub_word]

end Sys2Proof.Machine

/-! PROOFS of the family 41_float.md. A float is a sign and a magnitude; `sgn s * q` is the number with sign `s` and magnitude
`q`. Every operation of R161 to R163, unless an operand is zero or a sum cancels, ends in `fRange`, so what R158 asks of
it is one lemma about `fRange` and, for each operation, the bounds of its truncated significand. -/

namespace Sys2Proof.Machine

/-! ## The fields of a float -/

theorem fMant_eq (x : Word) : fMant x = x.toNat % 512 := by
  rw [fMant, BitVec.extractLsb'_toNat, Nat.shiftRight_zero]

theorem fExp_eq (x : Word) : fExp x = x.toNat / 512 % 64 := by
  rw [fExp, BitVec.extractLsb'_toNat, Nat.shiftRight_eq_div_pow]

theorem fSign_eq (x : Word) : fSign x = decide (32768 ≤ x.toNat) :=
  (BitVec.msb_eq_getLsbD_last x).symm.trans (BitVec.msb_eq_decide x)

theorem fMant_lt (x : Word) : fMant x < 512 := (x.extractLsb' 0 9).isLt

theorem fExp_lt (x : Word) : fExp x < 64 := (x.extractLsb' 9 6).isLt

theorem fSig_bounds (x : Word) : 512 ≤ fSig x ∧ fSig x < 1024 := by
  have hm := fMant_lt x
  rw [fSig]
  omega

/-- The 15 bits below the sign are the exponent field over the mantissa field. -/
theorem toNat_magnitude (x : Word) : (x.extractLsb' 0 15).toNat = 512 * fExp x + fMant x := by
  rw [fExp_eq, fMant_eq, BitVec.extractLsb'_toNat, Nat.shiftRight_zero]
  omega

theorem fIsZero_iff (x : Word) : fIsZero x = true ↔ fExp x = 0 ∧ fMant x = 0 := by
  rw [fIsZero, beq_iff_eq, ← BitVec.toNat_inj, toNat_magnitude]
  simp

theorem toNat_fPack (s : Bool) {e : Int} {f : Nat} (h0 : 0 ≤ e) (h63 : e ≤ 63) (hf : f < 512) :
    (fPack s e f).toNat = s.toNat * 32768 + e.toNat * 512 + f := by
  have he : (BitVec.ofInt 6 e).toNat = e.toNat := by
    rw [BitVec.toNat_ofInt, Int.emod_eq_of_lt h0 (by norm_num; omega)]
  have hm : (BitVec.ofNat 9 f).toNat = f := by
    rw [BitVec.toNat_ofNat, Nat.mod_eq_of_lt hf]
  have hs : (BitVec.ofBool s).toNat = s.toNat := BitVec.toNat_ofBool s
  have hlo : (BitVec.ofInt 6 e).toNat < 2 ^ 6 := BitVec.isLt _
  have hlm : (BitVec.ofNat 9 f).toNat < 2 ^ 9 := BitVec.isLt _
  rw [fPack, BitVec.toNat_append, BitVec.toNat_append, ← Nat.shiftLeft_add_eq_or_of_lt hlo,
    ← Nat.shiftLeft_add_eq_or_of_lt hlm, he, hm, hs]
  omega

section Pack

variable (s : Bool) {e : Int} {f : Nat} (h0 : 0 ≤ e) (h63 : e ≤ 63) (hf : f < 512)

include h0 h63 hf

theorem fMant_fPack : fMant (fPack s e f) = f := by
  rw [fMant_eq, toNat_fPack s h0 h63 hf]
  omega

theorem fExp_fPack : (fExp (fPack s e f) : Int) = e := by
  have hs := s.toNat_le
  rw [fExp_eq, toNat_fPack s h0 h63 hf]
  omega

theorem fSign_fPack : fSign (fPack s e f) = s := by
  rw [fSign_eq, toNat_fPack s h0 h63 hf]
  cases s
  · rw [Bool.toNat_false]
    exact decide_eq_false (by omega)
  · rw [Bool.toNat_true]
    exact decide_eq_true (by omega)

theorem fIsZero_fPack_iff : fIsZero (fPack s e f) = true ↔ e = 0 ∧ f = 0 := by
  have he := fExp_fPack s h0 h63 hf
  rw [fIsZero_iff, fMant_fPack s h0 h63 hf]
  omega

end Pack

@[simp] theorem fIsZero_fZero (s : Bool) : fIsZero (fZero s) = true := by
  cases s <;> decide

/-! ## The float with the other sign (41_float.md R160) -/

section Negate

variable (x : Word)

theorem extractLsb'_neg : (x ^^^ 0x8000#16).extractLsb' 0 15 = x.extractLsb' 0 15 := by
  rw [BitVec.extractLsb'_xor]
  exact BitVec.xor_zero

@[simp] theorem fIsZero_neg : fIsZero (x ^^^ 0x8000#16) = fIsZero x := by
  rw [fIsZero, extractLsb'_neg, fIsZero]

@[simp] theorem fMant_neg : fMant (x ^^^ 0x8000#16) = fMant x := by
  rw [fMant, BitVec.extractLsb'_xor]
  exact congrArg BitVec.toNat BitVec.xor_zero

@[simp] theorem fExp_neg : fExp (x ^^^ 0x8000#16) = fExp x := by
  rw [fExp, BitVec.extractLsb'_xor]
  exact congrArg BitVec.toNat BitVec.xor_zero

@[simp] theorem fSign_neg : fSign (x ^^^ 0x8000#16) = !fSign x := by
  rw [fSign, BitVec.getLsbD_xor]
  exact Bool.xor_true _

@[simp] theorem fSig_neg : fSig (x ^^^ 0x8000#16) = fSig x := by
  rw [fSig, fMant_neg, fSig]

end Negate

/-! ## The real number of a float (41_float.md R151, R152) -/

/-- The sign factor of a float's value. -/
def sgn (s : Bool) : ℚ := if s then -1 else 1

@[simp] theorem sgn_false : sgn false = 1 := rfl
@[simp] theorem sgn_true : sgn true = -1 := rfl

@[simp] theorem sgn_not (s : Bool) : sgn (!s) = -sgn s := by
  cases s <;> simp

theorem sgn_bne (s t : Bool) : sgn (s != t) = sgn s * sgn t := by
  cases s <;> cases t <;> simp

theorem abs_sgn_mul (s : Bool) {q : ℚ} (hq : 0 ≤ q) : |sgn s * q| = q := by
  cases s <;> simp [abs_of_nonneg hq]

theorem sgn_mul_mul_sgn_mul (s : Bool) (p q : ℚ) : sgn s * p * (sgn s * q) = p * q := by
  cases s <;> simp

theorem fval_of_isZero {x : Word} (h : fIsZero x = true) : fval x = 0 := if_pos h

theorem fval_of_not_isZero {x : Word} (h : fIsZero x = false) :
    fval x = sgn (fSign x) * (fSig x * (2 : ℚ) ^ ((fExp x : ℤ) - 40)) := by
  have hscale : (2 : ℚ) ^ ((fExp x : ℤ) - 31) = 512 * (2 : ℚ) ^ ((fExp x : ℤ) - 40) := by
    rw [show (fExp x : ℤ) - 31 = 9 + ((fExp x : ℤ) - 40) by ring, zpow_add₀ two_ne_zero]
    norm_num
  rw [fval, h, if_neg Bool.false_ne_true, hscale, fSig, sgn]
  push_cast
  ring

theorem fval_ne_zero {x : Word} (h : fIsZero x = false) : fval x ≠ 0 := by
  obtain ⟨hlo, -⟩ := fSig_bounds x
  have hsig : (fSig x : ℚ) ≠ 0 := Nat.cast_ne_zero.mpr (by omega)
  have hsgn : sgn (fSign x) ≠ 0 := by cases fSign x <;> simp
  rw [fval_of_not_isZero h]
  positivity

@[simp] theorem fval_neg (x : Word) : fval (x ^^^ 0x8000#16) = -fval x := by
  cases h : fIsZero x
  · rw [fval_of_not_isZero ((fIsZero_neg x).trans h), fval_of_not_isZero h, fSign_neg, fSig_neg, fExp_neg, sgn_not,
      neg_mul]
  · rw [fval_of_isZero ((fIsZero_neg x).trans h), fval_of_isZero h, neg_zero]

/-! ## Truncation (41_float.md R158) -/

theorem truncates_value_of_isZero {r : ℚ} {v : Word} (h : fIsZero v = true) :
    Truncates r (.value v) ↔ |r| < (2 : ℚ) ^ (-31 : ℤ) * (513 / 512) :=
  iff_of_eq (if_pos h)

theorem truncates_value_of_not_isZero {r : ℚ} {v : Word} (h : fIsZero v = false) :
    Truncates r (.value v) ↔
      0 < fval v * r ∧ |fval v| ≤ |r| ∧ |r| < |fval v| + (2 : ℚ) ^ ((fExp v : ℤ) - 40) :=
  iff_of_eq (if_neg (by rw [h]; exact Bool.false_ne_true))

/-- A float is its own truncation. -/
theorem truncates_fval (v : Word) : Truncates (fval v) (.value v) := by
  cases h : fIsZero v
  · rw [truncates_value_of_not_isZero h]
    exact ⟨mul_self_pos.mpr (fval_ne_zero h), le_rfl, lt_add_of_pos_right _ (by positivity)⟩
  · rw [truncates_value_of_isZero h, fval_of_isZero h]
    norm_num

theorem truncates_zero (s : Bool) : Truncates 0 (.value (fZero s)) := by
  simpa [fval_of_isZero] using truncates_fval (fZero s)

/-- The packed significand `m` at exponent field `e` is the truncation of what lies from `m` to below `m + 1` units in the
last place. -/
theorem truncates_fPack (s : Bool) {e : Int} {m : Nat} {q : ℚ} (h0 : 0 ≤ e) (h63 : e ≤ 63) (hm : 512 ≤ m) (hm' : m < 1024)
    (hlo : m * (2 : ℚ) ^ (e - 40) ≤ q) (hhi : q < (m + 1) * (2 : ℚ) ^ (e - 40)) :
    Truncates (sgn s * q) (.value (fPack s e (m - 512))) := by
  have hf : m - 512 < 512 := by omega
  have hmpos : (0 : ℚ) < m := by exact_mod_cast (by omega : 0 < m)
  have hvpos : (0 : ℚ) < m * (2 : ℚ) ^ (e - 40) := by positivity
  have hqpos : 0 < q := hvpos.trans_le hlo
  cases hz : fIsZero (fPack s e (m - 512))
  · have hval : fval (fPack s e (m - 512)) = sgn s * (m * (2 : ℚ) ^ (e - 40)) := by
      rw [fval_of_not_isZero hz, fSign_fPack s h0 h63 hf, fExp_fPack s h0 h63 hf, fSig, fMant_fPack s h0 h63 hf,
        Nat.add_sub_cancel' hm]
    rw [truncates_value_of_not_isZero hz, hval, abs_sgn_mul s hvpos.le, abs_sgn_mul s hqpos.le, fExp_fPack s h0 h63 hf,
      sgn_mul_mul_sgn_mul]
    exact ⟨mul_pos hvpos hqpos, hlo, by linarith⟩
  · obtain ⟨rfl, hm0⟩ := (fIsZero_fPack_iff s h0 h63 hf).mp hz
    obtain rfl : m = 512 := by omega
    rw [truncates_value_of_isZero hz, abs_sgn_mul s hqpos.le]
    norm_num at hhi ⊢
    exact hhi

/-- The end of every operation truncates, whatever the exponent. -/
theorem truncates_fRange (s : Bool) {e : Int} {m : Nat} {q : ℚ} (hm : 512 ≤ m) (hm' : m < 1024)
    (hlo : m * (2 : ℚ) ^ (e - 40) ≤ q) (hhi : q < (m + 1) * (2 : ℚ) ^ (e - 40)) :
    Truncates (sgn s * q) (fRange s e m) := by
  have hq : 0 ≤ q := le_trans (by positivity) hlo
  rw [fRange]
  split_ifs with hover hunder
  · rw [Truncates, abs_sgn_mul s hq]
    calc (2 : ℚ) ^ (33 : ℤ) = (512 : ℕ) * (2 : ℚ) ^ (24 : ℤ) := by norm_num
      _ ≤ m * (2 : ℚ) ^ (e - 40) := by gcongr; exacts [one_le_two, by omega]
      _ ≤ q := hlo
  · rw [truncates_value_of_isZero (fIsZero_fZero s), abs_sgn_mul s hq]
    calc q < ((m + 1 : ℕ) : ℚ) * (2 : ℚ) ^ (e - 40) := by exact_mod_cast hhi
      _ ≤ (1024 : ℕ) * (2 : ℚ) ^ (-41 : ℤ) := by gcongr; exacts [by omega, one_le_two, by omega]
      _ < (2 : ℚ) ^ (-31 : ℤ) * (513 / 512) := by norm_num
  · exact truncates_fPack s (by omega) (by omega) hm hm' hlo hhi

/-- A power of two dropped from the significand is one added to the exponent. -/
theorem mul_two_zpow_eq_div (n : ℚ) (k : ℕ) {e e' : ℤ} (h : e' = e + k) :
    n * (2 : ℚ) ^ e = n / ((2 ^ k : ℕ) : ℚ) * (2 : ℚ) ^ e' := by
  rw [h, zpow_add₀ two_ne_zero, zpow_natCast]
  push_cast
  field_simp

/-- The quotient `n / d` with its fraction dropped is a significand: the form in which every operation ends. -/
theorem truncates_fRange_div (s : Bool) (e : Int) {n d : Nat} (hlo : 512 * d ≤ n) (hhi : n < 1024 * d) :
    Truncates (sgn s * ((n / d : ℚ) * (2 : ℚ) ^ (e - 40))) (fRange s e (n / d)) := by
  have hd : 0 < d := by omega
  refine truncates_fRange s ((Nat.le_div_iff_mul_le hd).mpr hlo) ((Nat.div_lt_iff_lt_mul hd).mpr hhi) ?_ ?_
  · gcongr
    exact Nat.cast_div_le
  · gcongr
    rw [← Nat.floor_div_eq_div (K := ℚ)]
    exact Nat.lt_floor_add_one _

/-! ## Products and quotients (41_float.md R162, R163) -/

section MulDiv

variable {x y : Word}

theorem refMul_of_isZero (h : (fIsZero x || fIsZero y) = true) : refMul x y = .value (fZero (fSign x != fSign y)) :=
  if_pos h

/-- The significand of a product has 20 bits or 19. -/
theorem refMul_of_not_isZero (hx : fIsZero x = false) (hy : fIsZero y = false) :
    refMul x y = if fSig x * fSig y ≥ 2 ^ 19
      then fRange (fSign x != fSign y) ((fExp x : Int) + fExp y - 31 + 1) (fSig x * fSig y / 2 ^ 10)
      else fRange (fSign x != fSign y) ((fExp x : Int) + fExp y - 31) (fSig x * fSig y / 2 ^ 9) :=
  if_neg (by simp [hx, hy])

theorem fval_mul (hx : fIsZero x = false) (hy : fIsZero y = false) :
    fval x * fval y = sgn (fSign x != fSign y) *
      ((fSig x * fSig y : ℕ) * (2 : ℚ) ^ ((fExp x : ℤ) + fExp y - 80)) := by
  have hexp : (2 : ℚ) ^ ((fExp x : ℤ) + fExp y - 80) = (2 : ℚ) ^ ((fExp x : ℤ) - 40) * (2 : ℚ) ^ ((fExp y : ℤ) - 40) := by
    rw [← zpow_add₀ two_ne_zero]
    congr 1
    ring
  rw [fval_of_not_isZero hx, fval_of_not_isZero hy, sgn_bne, hexp]
  push_cast
  ring

/-- Settles O43: the exact product has at least 19 bits, of which the low 9 or 10 are dropped. -/
theorem floatProductTruncates : Obligations.FloatProductTruncates := by
  intro x y
  change Truncates _ (refMul x y)
  by_cases hz : (fIsZero x || fIsZero y) = true
  · have hzero : fval x * fval y = 0 := by
      rcases Bool.or_eq_true_iff.mp hz with h | h <;> simp [fval_of_isZero h]
    rw [refMul_of_isZero hz, hzero]
    exact truncates_zero _
  · obtain ⟨hx, hy⟩ : fIsZero x = false ∧ fIsZero y = false := by simpa using hz
    obtain ⟨hxlo, hxhi⟩ := fSig_bounds x
    obtain ⟨hylo, hyhi⟩ := fSig_bounds y
    have hlo : 512 * 512 ≤ fSig x * fSig y := Nat.mul_le_mul hxlo hylo
    have hhi : fSig x * fSig y < 1024 * 1024 := Nat.mul_lt_mul'' hxhi hyhi
    rw [refMul_of_not_isZero hx hy, fval_mul hx hy]
    split_ifs with hcarry
    · rw [mul_two_zpow_eq_div _ 10 (e' := (fExp x : ℤ) + fExp y - 31 + 1 - 40) (by push_cast; ring)]
      exact truncates_fRange_div _ _ (by omega) (by omega)
    · rw [mul_two_zpow_eq_div _ 9 (e' := (fExp x : ℤ) + fExp y - 31 - 40) (by push_cast; ring)]
      exact truncates_fRange_div _ _ (by omega) (by omega)

theorem refDiv_of_isZero (hx : fIsZero x = true) (hy : fIsZero y = false) :
    refDiv x y = .value (fZero (fSign x != fSign y)) := by
  simp [refDiv, hx, hy]

/-- A dividend with the smaller significand takes one more bit and one less in the exponent. -/
theorem refDiv_of_not_isZero (hx : fIsZero x = false) (hy : fIsZero y = false) :
    refDiv x y = if fSig x ≥ fSig y
      then fRange (fSign x != fSign y) ((fExp x : Int) - fExp y + 31) (fSig x * 2 ^ 9 / fSig y)
      else fRange (fSign x != fSign y) ((fExp x : Int) - fExp y + 31 - 1) (fSig x * 2 ^ 10 / fSig y) := by
  simp [refDiv, hx, hy]

theorem fval_div (hx : fIsZero x = false) (hy : fIsZero y = false) :
    fval x / fval y = sgn (fSign x != fSign y) * ((fSig x / fSig y : ℚ) * (2 : ℚ) ^ ((fExp x : ℤ) - fExp y)) := by
  have hexp : (2 : ℚ) ^ ((fExp x : ℤ) - fExp y) = (2 : ℚ) ^ ((fExp x : ℤ) - 40) / (2 : ℚ) ^ ((fExp y : ℤ) - 40) := by
    rw [← zpow_sub₀ two_ne_zero]
    congr 1
    ring
  have hsgn : (sgn (fSign y))⁻¹ = sgn (fSign y) := by cases fSign y <;> norm_num
  rw [fval_of_not_isZero hx, fval_of_not_isZero hy, mul_div_mul_comm, mul_div_mul_comm, ← hexp,
    div_eq_mul_inv (sgn _), hsgn, sgn_bne]

/-- Settles O44: the quotient of the significands lies from a half to below 2, and its first 10 bits are kept. -/
theorem floatQuotientTruncates : Obligations.FloatQuotientTruncates := by
  intro x y hy
  change Truncates _ (refDiv x y)
  cases hx : fIsZero x
  · obtain ⟨hxlo, hxhi⟩ := fSig_bounds x
    obtain ⟨hylo, hyhi⟩ := fSig_bounds y
    have hscale (k : ℕ) : (fSig x / fSig y : ℚ) * (2 : ℚ) ^ ((fExp x : ℤ) - fExp y) =
        ((fSig x * 2 ^ k : ℕ) / fSig y : ℚ) * (2 : ℚ) ^ ((fExp x : ℤ) - fExp y - k) := by
      have hexp : (2 : ℚ) ^ ((fExp x : ℤ) - fExp y) = 2 ^ k * (2 : ℚ) ^ ((fExp x : ℤ) - fExp y - k) := by
        rw [← zpow_natCast, ← zpow_add₀ two_ne_zero, add_sub_cancel]
      rw [hexp]
      push_cast
      ring
    rw [refDiv_of_not_isZero hx hy, fval_div hx hy]
    split_ifs with hge
    · rw [hscale 9, show (fExp x : ℤ) - fExp y - (9 : ℕ) = (fExp x : ℤ) - fExp y + 31 - 40 by push_cast; ring]
      exact truncates_fRange_div _ _ (by omega) (by omega)
    · rw [hscale 10, show (fExp x : ℤ) - fExp y - (10 : ℕ) = (fExp x : ℤ) - fExp y + 31 - 1 - 40 by push_cast; ring]
      exact truncates_fRange_div _ _ (by omega) (by omega)
  · rw [refDiv_of_isZero hx hy, fval_of_isZero hx, zero_div]
    exact truncates_zero _

end MulDiv

/-! ## Sums and differences (41_float.md R160, R161) -/

/-- The significand of `x` with its guard bit, moved to the exponent field `e`. -/
def alignedSig (x : Word) (e : Nat) : Nat := fSig x * 2 / 2 ^ (e - fExp x)

/-- How a sum of sign `s` and aligned significand `sum` at the exponent field `e` ends. -/
def finishSum (s : Bool) (sum e : Nat) : FloatOutcome :=
  if sum = 0 then .value 0x0000#16 else fRange s (fNormalize sum e).2 ((fNormalize sum e).1 / 2)

theorem finishSum_zero (s : Bool) (e : Nat) : finishSum s 0 e = .value 0x0000#16 := rfl

theorem finishSum_pos (s : Bool) {sum : Nat} (e : Nat) (h : sum ≠ 0) :
    finishSum s sum e = fRange s (fNormalize sum e).2 ((fNormalize sum e).1 / 2) := if_neg h

section AddAligned

variable {x y : Word} {e : Nat}

theorem fAddAligned_eq (he : e = max (fExp x) (fExp y)) : fAddAligned x y = finishSum
    (if fSign x = fSign y then fSign x else if alignedSig x e ≥ alignedSig y e then fSign x else fSign y)
    (if fSign x = fSign y then alignedSig x e + alignedSig y e
      else if alignedSig x e ≥ alignedSig y e then alignedSig x e - alignedSig y e
      else alignedSig y e - alignedSig x e) e := by
  subst he
  rfl

theorem fAddAligned_of_sign_eq (h : fSign x = fSign y) (he : e = max (fExp x) (fExp y)) :
    fAddAligned x y = finishSum (fSign x) (alignedSig x e + alignedSig y e) e := by
  rw [fAddAligned_eq he, if_pos h, if_pos h]

theorem fAddAligned_of_ge (h : fSign x ≠ fSign y) (he : e = max (fExp x) (fExp y)) (hge : alignedSig y e ≤ alignedSig x e) :
    fAddAligned x y = finishSum (fSign x) (alignedSig x e - alignedSig y e) e := by
  rw [fAddAligned_eq he, if_neg h, if_neg h, if_pos hge, if_pos hge]

theorem fAddAligned_of_le (h : fSign x ≠ fSign y) (he : e = max (fExp x) (fExp y)) (hle : alignedSig x e ≤ alignedSig y e) :
    fAddAligned x y = finishSum (fSign y) (alignedSig y e - alignedSig x e) e := by
  rcases hle.eq_or_lt with heq | hlt
  · rw [fAddAligned_of_ge h he heq.ge, heq, Nat.sub_self, finishSum_zero, finishSum_zero]
  · rw [fAddAligned_eq he, if_neg h, if_neg h, if_neg hlt.not_ge, if_neg hlt.not_ge]

end AddAligned

theorem fAddAligned_comm (x y : Word) : fAddAligned x y = fAddAligned y x := by
  have hmax := max_comm (fExp x) (fExp y)
  by_cases h : fSign x = fSign y
  · rw [fAddAligned_of_sign_eq h rfl, fAddAligned_of_sign_eq h.symm hmax, h, Nat.add_comm]
  · rcases Nat.le_total (alignedSig x (max (fExp x) (fExp y))) (alignedSig y (max (fExp x) (fExp y))) with hle | hle
    · rw [fAddAligned_of_le h rfl hle, fAddAligned_of_ge (Ne.symm h) hmax hle]
    · rw [fAddAligned_of_ge h rfl hle, fAddAligned_of_le (Ne.symm h) hmax hle]

section Add

variable {x y : Word}

theorem refAdd_of_isZero (hx : fIsZero x = true) (hy : fIsZero y = true) :
    refAdd x y = .value (fZero (fSign x && fSign y)) := by
  simp [refAdd, hx, hy]

theorem refAdd_of_isZero_left (hx : fIsZero x = true) (hy : fIsZero y = false) : refAdd x y = .value y := by
  simp [refAdd, hx, hy]

theorem refAdd_of_isZero_right (hx : fIsZero x = false) (hy : fIsZero y = true) : refAdd x y = .value x := by
  simp [refAdd, hx, hy]

theorem refAdd_of_not_isZero (hx : fIsZero x = false) (hy : fIsZero y = false) : refAdd x y = fAddAligned x y := by
  simp [refAdd, hx, hy]

end Add

theorem refAdd_comm (x y : Word) : refAdd x y = refAdd y x := by
  cases hx : fIsZero x <;> cases hy : fIsZero y
  · rw [refAdd_of_not_isZero hx hy, refAdd_of_not_isZero hy hx, fAddAligned_comm]
  · rw [refAdd_of_isZero_right hx hy, refAdd_of_isZero_left hy hx]
  · rw [refAdd_of_isZero_left hx hy, refAdd_of_isZero_right hy hx]
  · rw [refAdd_of_isZero hx hy, refAdd_of_isZero hy hx, Bool.and_comm]

theorem refAdd_neg_self (x : Word) : refAdd x (x ^^^ 0x8000#16) = .value 0x0000#16 := by
  cases hx : fIsZero x
  · have hsign : fSign x ≠ fSign (x ^^^ 0x8000#16) := by simp
    have hsig (e : Nat) : alignedSig (x ^^^ 0x8000#16) e = alignedSig x e := by simp [alignedSig]
    rw [refAdd_of_not_isZero hx (by simpa using hx), fAddAligned_of_ge hsign rfl (hsig _).le, hsig, Nat.sub_self,
      finishSum_zero]
  · rw [refAdd_of_isZero hx (by simpa using hx), fSign_neg, Bool.and_not_self]
    rfl

/-- Settles O41. -/
theorem floatAdditionIdentities : Obligations.FloatAdditionIdentities :=
  ⟨refAdd_comm, refAdd_neg_self, fun _ _ hx hz => refAdd_of_isZero_right hx hz⟩

/-- With fuel to bring `sum` to 1024, the steps left end at 11 bits and keep the number. -/
theorem fNormLeft_spec (fuel sum : Nat) (e : Int) (hlo : 1024 ≤ sum * 2 ^ fuel) (hhi : sum < 2048) :
    1024 ≤ (fNormLeft fuel sum e).1 ∧ (fNormLeft fuel sum e).1 < 2048 ∧
      ((fNormLeft fuel sum e).1 : ℚ) * (2 : ℚ) ^ (fNormLeft fuel sum e).2 = sum * (2 : ℚ) ^ e := by
  induction fuel generalizing sum e with
  | zero => exact ⟨by rwa [pow_zero, Nat.mul_one] at hlo, hhi, rfl⟩
  | succ fuel ih =>
    rw [fNormLeft]
    split_ifs with hsmall
    · obtain ⟨hlo', hhi', hval⟩ := ih (sum * 2) (e - 1) (by rw [pow_succ] at hlo; linarith) (by omega)
      refine ⟨hlo', hhi', hval.trans ?_⟩
      rw [zpow_sub_one₀ two_ne_zero]
      push_cast
      ring
    · exact ⟨by omega, hhi, rfl⟩

/-- The sum is normalised and truncated as R158 asks; the guard bit is half a unit at `e`. -/
theorem truncates_finishSum (s : Bool) {sum : Nat} (e : Nat) (hsum : sum < 4096) :
    Truncates (sgn s * (sum * (2 : ℚ) ^ ((e : ℤ) - 41))) (finishSum s sum e) := by
  rcases Nat.eq_zero_or_pos sum with rfl | hpos
  · rw [finishSum_zero, Nat.cast_zero, zero_mul, mul_zero]
    exact truncates_zero false
  rw [finishSum_pos s e hpos.ne', fNormalize]
  split_ifs with hcarry
  · rw [mul_two_zpow_eq_div _ 2 (e' := (e : ℤ) + 1 - 40) (by push_cast; ring), Nat.div_div_eq_div_mul]
    exact truncates_fRange_div s _ (by omega) (by omega)
  · obtain ⟨hlo, hhi, hval⟩ := fNormLeft_spec 10 sum e (by omega) (by omega)
    have hscale : (sum : ℚ) * (2 : ℚ) ^ ((e : ℤ) - 41) =
        (fNormLeft 10 sum e).1 * (2 : ℚ) ^ ((fNormLeft 10 sum e).2 - 41) := by
      rw [zpow_sub₀ two_ne_zero, zpow_sub₀ two_ne_zero, ← mul_div_assoc, ← mul_div_assoc, hval]
    rw [hscale, mul_two_zpow_eq_div _ 1 (e' := (fNormLeft 10 sum e).2 - 40) (by push_cast; ring)]
    exact truncates_fRange_div s _ (by omega) (by omega)

/-- A step of one to the right is exact: it loses the guard bit, which is 0. -/
theorem fval_eq_alignedSig {x : Word} {e : Nat} (hx : fIsZero x = false) (hle : fExp x ≤ e) (hnear : e ≤ fExp x + 1) :
    fval x = sgn (fSign x) * (alignedSig x e * (2 : ℚ) ^ ((e : ℤ) - 41)) := by
  rw [fval_of_not_isZero hx, alignedSig]
  congr 1
  obtain rfl | rfl : e = fExp x ∨ e = fExp x + 1 := by omega
  · have hexp : (2 : ℚ) ^ ((fExp x : ℤ) - 40) = (2 : ℚ) ^ ((fExp x : ℤ) - 41) * 2 := by
      rw [← zpow_add_one₀ two_ne_zero]
      congr 1
      ring
    rw [Nat.sub_self, pow_zero, Nat.div_one, hexp]
    push_cast
    ring
  · rw [Nat.add_sub_cancel_left, pow_one, Nat.mul_div_cancel _ two_pos]
    congr 2
    push_cast
    ring

theorem alignedSig_lt (x : Word) (e : Nat) : alignedSig x e < 2048 := by
  obtain ⟨-, hhi⟩ := fSig_bounds x
  exact (Nat.div_le_self _ _).trans_lt (by omega)

theorem sgn_of_ne {s t : Bool} (h : s ≠ t) : sgn s = -sgn t := by
  rw [Bool.eq_not.mpr h, sgn_not]

theorem truncates_fAddAligned {x y : Word} (hx : fIsZero x = false) (hy : fIsZero y = false) (hxy : fExp x ≤ fExp y + 1)
    (hyx : fExp y ≤ fExp x + 1) : Truncates (fval x + fval y) (fAddAligned x y) := by
  obtain ⟨e, he⟩ : ∃ e, e = max (fExp x) (fExp y) := ⟨_, rfl⟩
  have hxlt := alignedSig_lt x e
  have hylt := alignedSig_lt y e
  rw [fval_eq_alignedSig (e := e) hx (by omega) (by omega), fval_eq_alignedSig (e := e) hy (by omega) (by omega)]
  by_cases h : fSign x = fSign y
  · rw [fAddAligned_of_sign_eq h he, h, ← mul_add, ← add_mul, ← Nat.cast_add]
    exact truncates_finishSum _ e (by omega)
  rcases Nat.le_total (alignedSig y e) (alignedSig x e) with hle | hle
  · rw [fAddAligned_of_ge h he hle, sgn_of_ne (Ne.symm h), neg_mul, ← sub_eq_add_neg, ← mul_sub, ← sub_mul,
      ← Nat.cast_sub hle]
    exact truncates_finishSum _ e (by omega)
  · rw [fAddAligned_of_le h he hle, sgn_of_ne h, neg_mul, neg_add_eq_sub, ← mul_sub, ← sub_mul, ← Nat.cast_sub hle]
    exact truncates_finishSum _ e (by omega)

theorem truncates_refAdd {x y : Word}
    (h : fIsZero x = true ∨ fIsZero y = true ∨ (fExp x ≤ fExp y + 1 ∧ fExp y ≤ fExp x + 1)) :
    Truncates (fval x + fval y) (refAdd x y) := by
  cases hx : fIsZero x <;> cases hy : fIsZero y
  · obtain ⟨hxy, hyx⟩ : fExp x ≤ fExp y + 1 ∧ fExp y ≤ fExp x + 1 := by simpa [hx, hy] using h
    rw [refAdd_of_not_isZero hx hy]
    exact truncates_fAddAligned hx hy hxy hyx
  · rw [refAdd_of_isZero_right hx hy, fval_of_isZero hy, add_zero]
    exact truncates_fval x
  · rw [refAdd_of_isZero_left hx hy, fval_of_isZero hx, zero_add]
    exact truncates_fval y
  · rw [refAdd_of_isZero hx hy, fval_of_isZero hx, fval_of_isZero hy, add_zero]
    exact truncates_zero _

/-- Settles O42: the difference is the sum with the negative. -/
theorem floatSumTruncatesNearExponents : Obligations.FloatSumTruncatesNearExponents := by
  intro x y h
  refine ⟨truncates_refAdd h, ?_⟩
  rw [sub_eq_add_neg, ← fval_neg]
  exact truncates_refAdd (by simpa using h)

/-! ## Comparisons (41_float.md R165 to R168) -/

/-- The number a magnitude of 15 bits stands for: `n / 512` is its exponent field and `n % 512` its mantissa field. -/
def magValue (n : Nat) : ℚ := if n = 0 then 0 else (512 + n % 512 : ℕ) * (2 : ℚ) ^ ((n / 512 : ℕ) - 40 : ℤ)

theorem magValue_of_ne {n : Nat} (h : n ≠ 0) :
    magValue n = (512 + n % 512 : ℕ) * (2 : ℚ) ^ ((n / 512 : ℕ) - 40 : ℤ) := if_neg h

/-- The next magnitude has the next mantissa, or the next exponent and mantissa 0. -/
theorem magValue_strictMono : StrictMono magValue := by
  refine strictMono_nat_of_lt_succ fun n => ?_
  rcases Nat.eq_zero_or_pos n with rfl | hn
  · simp [magValue]
  rw [magValue_of_ne hn.ne', magValue_of_ne n.succ_ne_zero]
  obtain ⟨hmod, hdiv⟩ | ⟨hmod, hmod', hdiv⟩ : ((n + 1) % 512 = n % 512 + 1 ∧ (n + 1) / 512 = n / 512) ∨
      (n % 512 = 511 ∧ (n + 1) % 512 = 0 ∧ (n + 1) / 512 = n / 512 + 1) := by omega
  · rw [hmod, hdiv]
    gcongr
    omega
  · rw [hmod, hmod', hdiv, show ((n / 512 + 1 : ℕ) : ℤ) - 40 = (n / 512 : ℕ) - 40 + 1 by push_cast; ring,
      zpow_add_one₀ two_ne_zero]
    have hpos : (0 : ℚ) < (2 : ℚ) ^ ((n / 512 : ℕ) - 40 : ℤ) := by positivity
    generalize (2 : ℚ) ^ ((n / 512 : ℕ) - 40 : ℤ) = u at hpos ⊢
    push_cast
    linarith

/-- The number a key stands for. -/
def keyValue (k : Int) : ℚ := if k < 0 then -magValue k.natAbs else magValue k.natAbs

theorem keyValue_of_nonneg {k : Int} (h : 0 ≤ k) : keyValue k = magValue k.natAbs := if_neg h.not_gt

theorem keyValue_natCast (n : Nat) : keyValue n = magValue n := keyValue_of_nonneg n.cast_nonneg

theorem keyValue_neg (k : Int) : keyValue (-k) = -keyValue k := by
  rcases lt_trichotomy k 0 with h | rfl | h
  · rw [keyValue_of_nonneg (by omega), keyValue, if_pos h, Int.natAbs_neg, neg_neg]
  · rfl
  · rw [keyValue_of_nonneg h.le, keyValue, if_pos (by omega), Int.natAbs_neg]

theorem keyValue_strictMono : StrictMono keyValue := by
  refine strictMono_of_odd_strictMonoOn_nonneg keyValue_neg fun k (hk : 0 ≤ k) l (hl : 0 ≤ l) hkl => ?_
  rw [keyValue_of_nonneg hk, keyValue_of_nonneg hl]
  exact magValue_strictMono (by omega)

theorem magValue_magnitude {x : Word} (h : fIsZero x = false) :
    magValue (x.extractLsb' 0 15).toNat = fSig x * (2 : ℚ) ^ ((fExp x : ℤ) - 40) := by
  have hmant := fMant_lt x
  have hne : 512 * fExp x + fMant x ≠ 0 := fun h0 => by
    have hzero := (fIsZero_iff x).mpr (by omega)
    simp [h] at hzero
  rw [toNat_magnitude, magValue_of_ne hne, fSig, show (512 * fExp x + fMant x) % 512 = fMant x by omega,
    show (512 * fExp x + fMant x) / 512 = fExp x by omega]

/-- The key stands for the value. -/
theorem fval_eq_keyValue (x : Word) : fval x = keyValue (fKey x) := by
  cases hz : fIsZero x
  · rw [fval_of_not_isZero hz, ← magValue_magnitude hz, ← keyValue_natCast, fKey, hz, if_neg Bool.false_ne_true]
    cases fSign x
    · exact one_mul _
    · exact (neg_one_mul _).trans (keyValue_neg _).symm
  · rw [fval_of_isZero hz, fKey, if_pos hz]
    rfl

theorem fKey_lt_iff (x y : Word) : fKey x < fKey y ↔ fval x < fval y := by
  rw [fval_eq_keyValue, fval_eq_keyValue, keyValue_strictMono.lt_iff_lt]

theorem fKey_le_iff (x y : Word) : fKey x ≤ fKey y ↔ fval x ≤ fval y := by
  rw [fval_eq_keyValue, fval_eq_keyValue, keyValue_strictMono.le_iff_le]

theorem fKey_eq_iff (x y : Word) : fKey x = fKey y ↔ fval x = fval y := by
  rw [fval_eq_keyValue, fval_eq_keyValue, keyValue_strictMono.injective.eq_iff]

/-- The word a comparison writes. -/
theorem boolWord_decide (P : Prop) [Decidable P] : boolWord (decide P) = if P then 1 else 0 := by
  by_cases h : P <;> simp [boolWord, h]

theorem fLess_eq (x y : Word) : fLess x y = decide (fval x < fval y) := decide_eq_decide.mpr (fKey_lt_iff x y)

theorem fLessEq_eq (x y : Word) : fLessEq x y = decide (fval x ≤ fval y) := decide_eq_decide.mpr (fKey_le_iff x y)

theorem fEqual_eq (x y : Word) : fEqual x y = decide (fval x = fval y) := decide_eq_decide.mpr (fKey_eq_iff x y)

/-- Settles O37: the keys are ordered as the values are. -/
theorem floatCompareResults : Obligations.FloatCompareResults := by
  intro d a b s
  refine ⟨rfl, completes_of_setR rfl fun t ht => ?_, rfl, completes_of_setR rfl fun t ht => ?_,
    rfl, completes_of_setR rfl fun t ht => ?_⟩
  · rw [ht, fLess_eq, boolWord_decide]
  · rw [ht, fLessEq_eq, boolWord_decide]
  · rw [ht, fEqual_eq, boolWord_decide]

end Sys2Proof.Machine

/-! PROOFS of the family 42_addi.md. A field of six bits stands in an `Instr` as its signed value; encoding takes back the field,
and `sext16` of the value is the sign extension of the field. The sum itself is one write to the destination. -/

namespace Sys2Proof.Machine

/-- The displacement of a field is encoded as that field. -/
theorem wordDisp_toInt (c : BitVec 4) (d a : Fin 8) (N : BitVec 6) :
    wordDisp c d a N.toInt = c ++ field3 d ++ field3 a ++ N := by
  rw [wordDisp, BitVec.ofInt_toInt, word2Reg]

theorem sext16_toInt {w : Nat} (N : BitVec w) : sext16 N.toInt = N.signExtend 16 := rfl

/-- Settles O33. -/
theorem addiResult : Obligations.AddiResult := by
  intro d a N s
  refine ⟨wordDisp_toInt _ d.num a.num N, completes_of_setR rfl fun t ht => ?_⟩
  rw [ht, sext16_toInt]

end Sys2Proof.Machine

/-! PROOFS of the family 43_compare.md. The five comparisons are one operation, `compareOp`, at five relations between words
(R185), so its result and its frame are proved once, for every decidable relation. -/

namespace Sys2Proof.Machine

/-- A comparison writes 1 to R[d] if the relation holds between its sources, and 0 if not (43_compare.md R185). -/
theorem completes_compareOp (P : Word → Word → Prop) [DecidableRel P] (d a b : GReg) (s : State) :
    Completes (compareOp (fun x y => decide (P x y)) d a b s)
      (fun t => t.R d = (if P (s.R a) (s.R b) then 1 else 0) ∧ t.pc = s.pc ∧ OnlyChanges { gs := [d] } s t) :=
  completes_of_setR rfl fun _ ht => ht.trans (boolWord_decide (P (s.R a) (s.R b)))

/-- Settles O36: signed order on the integers, unsigned order on the naturals, equality on the words themselves. -/
theorem integerCompareResults : Obligations.IntegerCompareResults := by
  intro d a b s
  refine ⟨rfl, ?cmplt, rfl, ?cmple, rfl, ?cmpeq, rfl, ?cmpltu, rfl, ?cmpleu⟩
  case cmplt => exact completes_compareOp (fun x y => x.toInt < y.toInt) d a b s
  case cmple => exact completes_compareOp (fun x y => x.toInt ≤ y.toInt) d a b s
  case cmpeq => exact completes_compareOp (fun x y => x = y) d a b s
  case cmpltu => exact completes_compareOp (fun x y => x.toNat < y.toNat) d a b s
  case cmpleu => exact completes_compareOp (fun x y => x.toNat ≤ y.toNat) d a b s

end Sys2Proof.Machine

/-! PROOFS of the family 44_memory_access.md. The base register alone decides whether a 16-bit access is misaligned: at an odd base
all four forms are one trap entry, at an even base each is one write, to a register or to the two bytes of a word, and the rules
of that write give the result and the frame at once. -/

namespace Sys2Proof.Machine

/-! ## Odd bases (44_memory_access.md R204) -/

section Odd

variable {ea : Word} (s : State)

theorem loadItem_of_odd (hodd : isOdd ea = true) (put : State → Word → State) :
    loadItem ea put s = raise (.misaligned ea) s :=
  if_pos hodd

theorem storeItem_of_odd (hodd : isOdd ea = true) (v : Word) : storeItem ea v s = raise (.misaligned ea) s :=
  if_pos hodd

/-- The entry for a misaligned access writes code 1 and the address (60_exceptions.md R273). -/
theorem completes_raise_misaligned_enters (ea : Word) : Completes (raise (.misaligned ea) s)
    (fun t => EntersHandler (.misaligned ea) s.pc s t ∧ t.S S2 = 1 ∧ t.S S3 = ea) :=
  have henters := trapEntry_entersHandler (.misaligned ea) s.pc s
  ⟨_, rfl, henters, henters.code, henters.address ea rfl⟩

end Odd

/-- At an odd base none of the four forms does anything but raise, whatever register it names. -/
theorem exec_of_odd {a : GReg} {s : State} (hodd : isOdd (s.R a) = true) (d : GReg) (f : FReg) (n : Int) :
    ∀ i ∈ [Instr.ld d a n, .st d a n, .ldf f a n, .stf f a n],
      exec i s = raise (.misaligned (wordAddr (s.R a) n)) s := by
  have hea : isOdd (wordAddr (s.R a) n) = true := (isOdd_wordAddr (s.R a) n).trans hodd
  simp only [List.forall_mem_cons]
  refine ⟨?ld, ?st, ?ldf, ?stf, nofun⟩
  case ld => exact loadItem_of_odd s hea fun t v => t.setR d v
  case st => exact storeItem_of_odd s hea (s.R d)
  case ldf => exact loadItem_of_odd s hea fun t v => t.setF f v
  case stf => exact storeItem_of_odd s hea (s.F f)

/-- Settles O47: the displacement is even, so the address is as odd as the base; an odd one is the trap entry alone. -/
theorem misalignedAccessRaises : Obligations.MisalignedAccessRaises := by
  intro d a f n s
  refine ⟨isOdd_wordAddr (s.R a) n, fun hodd i hi => ?_⟩
  rw [exec_of_odd hodd d f n i hi]
  exact completes_raise_misaligned_enters s _

/-! ## Effective addresses of a field (44_memory_access.md R196, R197) -/

theorem byteAddr_toInt (base : Word) (N : BitVec 6) : byteAddr base N.toInt = base + N.signExtend 16 := rfl

theorem wordAddr_toInt (base : Word) (N : BitVec 6) : wordAddr base N.toInt = base + (N.signExtend 16 <<< 1) := rfl

/-! ## Loads -/

/-- The answer that only writes `v` to F[d]. -/
theorem completes_of_setF {s : State} {d : FReg} {v : Word} {r : Result} (hr : r = .next (s.setF d v)) :
    Completes r (fun t => t.F d = v ∧ t.pc = s.pc ∧ OnlyChanges { fs := [d] } s t) :=
  ⟨_, hr, F_setF_same s d v, pc_setF s d v, onlyChanges_setF s d v⟩

/-- Settles O45: each load is one register write, of the byte extended by its sign or of the two bytes as a word. -/
theorem loadResults : Obligations.LoadResults := by
  intro d a f N s
  refine ⟨⟨wordDisp_toInt _ d.num a.num N, ?ldb⟩, ⟨wordDisp_toInt _ d.num a.num N, ?ld⟩,
    ⟨wordDisp_toInt _ f.num a.num N, ?ldf⟩⟩
  case ldb => exact completes_of_setR (exec_ldb d a N.toInt s) fun t ht => ht
  case ld =>
    rintro heven ea rfl
    exact completes_of_setR (exec_ld_of_even heven d N.toInt) fun t ht => ht
  case ldf =>
    rintro heven ea rfl
    exact completes_of_setF (exec_ldf_of_even heven f N.toInt)

/-! ## Stores -/

section Stores

variable (s : State) (ea : Word)

theorem onlyChanges_writeByte (v : Byte) : OnlyChanges { bytes := [ea] } s (s.writeByte ea v) where
  gprs _ _ := rfl
  fprs _ _ := rfl
  sprs _ _ := rfl
  memory x hx := readByte_writeByte_other s x ea v (by simpa using hx)
  outputs _ _ := rfl
  history := by simp
  halted := by simp
  env := rfl
  script := rfl
  tick := rfl

theorem onlyChanges_writeWord (v : Word) : OnlyChanges { bytes := itemBytes ea } s (s.writeWord ea v) where
  gprs _ _ := rfl
  fprs _ _ := rfl
  sprs _ _ := rfl
  memory x hx := readByte_writeWord_other s x ea v hx
  outputs _ _ := rfl
  history := by simp
  halted := by simp
  env := rfl
  script := rfl
  tick := rfl

end Stores

/-- The answer that only stores the word `v` at `ea`, the low byte at the lower address (20_memory.md R62). -/
theorem completes_of_writeWord {s : State} {ea v : Word} {r : Result} (hr : r = .next (s.writeWord ea v)) :
    Completes r (fun t => t.readByte ea = lowByte v ∧ t.readByte (ea + 1) = highByte v ∧ t.pc = s.pc ∧
      OnlyChanges { bytes := itemBytes ea } s t) :=
  ⟨_, hr, readByte_writeWord_low s ea v, readByte_writeWord_high s ea v, pc_writeWord s ea v, onlyChanges_writeWord s ea v⟩

/-- Settles O46: STB is one byte written at any address, ST and STF are one word written, from either register file. -/
theorem storeResults : Obligations.StoreResults := by
  intro b a f N s
  refine ⟨⟨wordDisp_toInt _ b.num a.num N, ?stb⟩, ⟨wordDisp_toInt _ b.num a.num N, ?st⟩,
    ⟨wordDisp_toInt _ f.num a.num N, ?stf⟩⟩
  case stb =>
    rintro ea rfl
    exact ⟨_, exec_stb b a N.toInt s, readByte_writeByte_same s _ _, pc_writeByte s _ _, onlyChanges_writeByte s _ _⟩
  case st =>
    rintro heven ea rfl
    exact completes_of_writeWord (exec_st_of_even heven b N.toInt)
  case stf =>
    rintro heven ea rfl
    exact completes_of_writeWord (exec_stf_of_even heven f N.toInt)

end Sys2Proof.Machine

/-! PROOFS of the family 45_control_transfer.md. BZ, BNZ, JZ and JNZ are one operation, `jumpIf`, at a condition and a target, so
where it puts the PC and what it leaves as it was are proved once, for every decidable condition and for its negation. -/

namespace Sys2Proof.Machine

/-! ## A conditional transfer -/

theorem onlyChanges_refl (s : State) : OnlyChanges {} s s where
  gprs _ _ := rfl
  fprs _ _ := rfl
  sprs _ _ := rfl
  memory _ _ := rfl
  outputs _ _ := rfl
  history := by simp
  halted := by simp
  env := rfl
  script := rfl
  tick := rfl

/-- A transfer that is taken moves the PC to its target, one that is not leaves it, and neither does anything else. -/
theorem completes_jumpIf_pc (P : Prop) [Decidable P] (target : Word) (s : State) : Completes (jumpIf (decide P) target s)
    (fun t => t.pc = (if P then target else s.pc) ∧ OnlyChanges {} s t) := by
  by_cases h : P
  · exact ⟨s.setPc target, by simp [jumpIf, h], by simp [h], (onlyChanges_refl s).setPc target⟩
  · exact ⟨s, by simp [jumpIf, h], by simp [h], onlyChanges_refl s⟩

/-- The transfer on the opposite condition has the same two PCs, exchanged. -/
theorem completes_jumpIf_not_pc (P : Prop) [Decidable P] (target : Word) (s : State) :
    Completes (jumpIf (decide ¬P) target s)
      (fun t => t.pc = (if P then s.pc else target) ∧ OnlyChanges {} s t) := by
  simpa only [ite_not] using completes_jumpIf_pc (¬P) target s

/-! ## Branches -/

/-- The displacement of a branch is even, so its target is as odd as `pcup` (45_control_transfer.md R218). -/
@[simp] theorem isOdd_branchTarget (pcup : Word) (n : Int) : isOdd (branchTarget pcup n) = isOdd pcup :=
  isOdd_add_of_even pcup (isOdd_scaled n)

theorem isOdd_pc_of_jumpIf {taken : Bool} {target : Word} {s t : State} (hpc : isOdd s.pc = false)
    (htarget : isOdd target = false) (h : jumpIf taken target s = .next t) : isOdd t.pc = false := by
  cases taken with
  | false => cases h; exact hpc
  | true => cases h; exact htarget

/-- Settles O21: both ways out of a branch, `pcup` and the target, are even. -/
theorem branchesKeepThePcEven : Obligations.BranchesKeepThePcEven := by
  intro b n s t hpc h
  have htarget : isOdd (branchTarget s.pc n) = false := (isOdd_branchTarget s.pc n).trans hpc
  rcases h with hbz | hbnz
  · exact isOdd_pc_of_jumpIf hpc htarget hbz
  · exact isOdd_pc_of_jumpIf hpc htarget hbnz

theorem branchTarget_toInt (pcup : Word) (N : BitVec 8) :
    branchTarget pcup N.toInt = pcup + (N.signExtend 16 <<< 1) := rfl

theorem word1Reg_toInt (c : BitVec 4) (d : BitVec 3) (e : BitVec 1) (N : BitVec 8) :
    word1Reg c d e (BitVec.ofInt 8 N.toInt) = c ++ d ++ e ++ N := by
  rw [BitVec.ofInt_toInt, word1Reg]

/-- Settles O50: BZ and BNZ are the transfers on `R[b] = 0` and on its negation, to the same target. -/
theorem branchResults : Obligations.BranchResults := by
  intro b N s
  rw [← branchTarget_toInt]
  refine ⟨word1Reg_toInt _ _ _ N, ?bz, word1Reg_toInt _ _ _ N, ?bnz⟩
  case bz => exact completes_jumpIf_pc (s.R b = 0) _ s
  case bnz => exact completes_jumpIf_not_pc (s.R b = 0) _ s

/-! ## Jumps -/

/-- Settles O51: JZ and JNZ are the same transfers to all 16 bits of R[a]; JMP is the one that is always taken. -/
theorem jumpResults : Obligations.JumpResults := by
  intro b a s
  refine ⟨rfl, ?jz, rfl, ?jnz, rfl, ?jmp⟩
  case jz => exact completes_jumpIf_pc (s.R b = 0) (s.R a) s
  case jnz => exact completes_jumpIf_not_pc (s.R b = 0) (s.R a) s
  case jmp => exact ⟨_, rfl, pc_setPc s (s.R a), (onlyChanges_refl s).setPc _⟩

end Sys2Proof.Machine

/-! PROOFS of the family 46_move_immediate.md. Both instructions write one word to the destination. MOVI puts the byte in the low
half, under its sign, and MOVHI keeps that half and gives the other, so the two in that order write every word. -/

namespace Sys2Proof.Machine

theorem exec_movi (d : GReg) (n : Int) (s : State) : exec (.movi d n) s = .next (s.setR d (sext16 n)) := rfl

theorem exec_movhi (d : GReg) (n : Byte) (s : State) :
    exec (.movhi d n) s = .next (s.setR d (wordOfBytes (lowByte (s.R d)) n)) := rfl

/-- Settles O34: MOVI writes the sign extension of its byte, MOVHI its byte above the low byte that was there. -/
theorem moveImmediateResults : Obligations.MoveImmediateResults := by
  intro d N s
  refine ⟨word1Reg_toInt _ _ _ N, ?movi, rfl, ?movhi⟩
  case movi => exact completes_of_setR (exec_movi d N.toInt s) fun t ht => ht.trans (sext16_toInt N)
  case movhi => exact completes_of_setR (exec_movhi d N s) fun t ht => ht

/-! ## Loading a constant (46_move_immediate.md R238) -/

/-- Sign extension leaves the byte itself in the low half. -/
theorem lowByte_sext16_toInt (N : Byte) : lowByte (sext16 N.toInt) = N := by
  apply BitVec.eq_of_getLsbD_eq
  intro i hi
  have hword : i < 16 := by omega
  rw [lowByte, sext16_toInt, BitVec.getLsbD_extractLsb', BitVec.getLsbD_signExtend]
  simp [hi, hword]

/-- Of two writes to one register only the second is left. -/
theorem setR_setR_same (s : State) (d : GReg) (v w : Word) : (s.setR d v).setR d w = s.setR d w := by
  simp [State.setR]

/-- MOVHI after MOVI, on one register, is a single write of the two bytes as a word. -/
theorem exec_movhi_after_movi (d : GReg) (lo hi : Byte) (s : State) :
    exec (.movhi d hi) (s.setR d (sext16 lo.toInt)) = .next (s.setR d (wordOfBytes lo hi)) := by
  rw [exec_movhi, R_setR_same, lowByte_sext16_toInt, setR_setR_same]

/-- Settles O35: the one write is of the word the two bytes of `K` make. -/
theorem moviThenMovhiLoadsAnyConstant : Obligations.MoviThenMovhiLoadsAnyConstant := by
  intro d K s
  have hmovhi : exec (.movhi d (highByte K)) (s.setR d (sext16 (lowByte K).toInt)) = .next (s.setR d K) := by
    rw [exec_movhi_after_movi, wordOfBytes_halves]
  exact ⟨_, exec_movi d _ s, _, hmovhi, R_setR_same s d K, onlyChanges_setR s d K⟩

end Sys2Proof.Machine

/-! PROOFS of the family 47_io_and_special.md. Each instruction here is a write or two to the state; the frame of an event, of an
output register and of the halted condition are said once, beside those of the register writes, and composed. -/

namespace Sys2Proof.Machine

/-! ## What an event, an output and a stop leave unchanged -/

/-- An event is added to what has been recorded, and touches nothing else (20_memory.md R81). -/
theorem OnlyChanges.record {w : Touched} {s t : State} (h : OnlyChanges w s t) (e : IoEvent) :
    OnlyChanges { w with events := w.events ++ [e] } s (t.record e) where
  gprs := h.gprs
  fprs := h.fprs
  sprs := h.sprs
  memory := h.memory
  outputs := h.outputs
  history := by rw [history_record, h.history, List.append_assoc]
  halted := h.halted
  env := h.env
  script := h.script
  tick := h.tick

theorem onlyChanges_setOutPort (s : State) (p : Port) (v : Word) :
    OnlyChanges { ports := [p] } s (s.setOutPort p v) where
  gprs _ _ := rfl
  fprs _ _ := rfl
  sprs _ _ := rfl
  memory _ _ := rfl
  outputs q hq := outPort_setOutPort_other s q p v (by simpa using hq)
  history := by simp
  halted := by simp
  env := rfl
  script := rfl
  tick := rfl

theorem onlyChanges_setHalted (s : State) : OnlyChanges { halts := true } s { s with halted := true } where
  gprs _ _ := rfl
  fprs _ _ := rfl
  sprs _ _ := rfl
  memory _ _ := rfl
  outputs _ _ := rfl
  history := by simp
  halted := by simp
  env := rfl
  script := rfl
  tick := rfl

/-! ## IN and OUT (47_io_and_special.md R241, R242) -/

/-- The port field is the unsigned number of the port (30_encoding.md R98). -/
theorem word1Reg_port (c : BitVec 4) (d : BitVec 3) (e : BitVec 1) (p : Port) :
    word1Reg c d e (BitVec.ofFin p) = c ++ d ++ e ++ BitVec.ofNat 8 p.val := by
  have hport : BitVec.ofFin p = BitVec.ofNat 8 p.val := BitVec.ofFin_eq_ofNat
  rw [word1Reg, hport]

theorem exec_inp (d : GReg) (p : Port) (s : State) : exec (.inp d p) s =
    .next ((s.setR d s.env.inPorts[p]).record (.inRead p s.env.inPorts[p])) := by
  rw [← inPort_eq]
  rfl

theorem exec_out (b : GReg) (p : Port) (s : State) :
    exec (.out b p) s = .next ((s.setOutPort p (s.R b)).record (.outWrite p (s.R b))) := rfl

/-- Settles O54: with the default parameters of the port, IN is one register write and its event. -/
theorem inReadsThePresentedValue : Obligations.InReadsThePresentedValue := by
  intro d p s
  refine ⟨word1Reg_port _ _ _ p, _, exec_inp d p s, ?_, rfl, (onlyChanges_setR s d _).record _⟩
  rw [R_record, R_setR_same]

/-- Settles O55. -/
theorem outWritesThePort : Obligations.OutWritesThePort := by
  intro b p s
  refine ⟨word1Reg_port _ _ _ p, _, exec_out b p s, ?_, rfl, (onlyChanges_setOutPort s p _).record _⟩
  rw [outPort_record, outPort_setOutPort_same]

/-! ## EI, DI and RETI (47_io_and_special.md R244 to R246) -/

/-- EI sets bit I and leaves every other bit as it was. -/
theorem getLsbD_permitInterrupts (psw : Word) (k : Nat) :
    (permitInterrupts psw).getLsbD k = if k = 1 then true else psw.getLsbD k := by
  have mask : (0x0002#16).getLsbD k = decide (k = 1) := by
    rw [show 0x0002#16 = BitVec.twoPow 16 1 from rfl, BitVec.getLsbD_twoPow]
    simp [eq_comm]
  rw [permitInterrupts, BitVec.getLsbD_or, mask]
  by_cases hk : k = 1 <;> simp [hk]

/-- DI clears bit I and leaves every other bit as it was. -/
theorem getLsbD_inhibitInterrupts (psw : Word) (k : Nat) :
    (inhibitInterrupts psw).getLsbD k = if k = 1 then false else psw.getLsbD k := by
  split
  case isTrue hk => rw [hk]; exact statusI_inhibitInterrupts psw
  case isFalse hk => exact getLsbD_inhibitInterrupts_other psw hk

/-- S7 keeps all 16 bits of what is written to it. -/
@[simp] theorem S7_setS_S7 (s : State) (psw : Word) : (s.setS S7 psw).S S7 = psw := by
  rw [S_setS_same, sregStored_other S7 psw (by decide)]

/-- The answer that only writes `psw` to S7: what `Q` says has to follow from the new value of S7. -/
theorem completes_of_setS_S7 {s : State} {psw : Word} {r : Result} {Q : State → Prop}
    (hr : r = .next (s.setS S7 psw)) (hQ : ∀ t, t.S S7 = psw → Q t) :
    Completes r (fun t => Q t ∧ t.pc = s.pc ∧ OnlyChanges { ss := [S7] } s t) :=
  ⟨_, hr, hQ _ (S7_setS_S7 s psw), pc_setS s S7 psw, onlyChanges_setS s S7 psw⟩

/-- The return writes S7 and the PC alone (60_exceptions.md R292). -/
theorem onlyChanges_returnFromTrap (s : State) : OnlyChanges { ss := [S7] } s (returnFromTrap s) :=
  (onlyChanges_setS s S7 _).setPc _

/-- Settles O56: EI and DI are one write to S7, RETI is the return from the handler. -/
theorem interruptControlResults : Obligations.InterruptControlResults := by
  refine ⟨rfl, rfl, rfl, fun s => ⟨?ei, ?di, ?reti⟩⟩
  case ei => exact completes_of_setS_S7 rfl fun t ht k => by rw [ht, getLsbD_permitInterrupts]
  case di => exact completes_of_setS_S7 rfl fun t ht k => by rw [ht, getLsbD_inhibitInterrupts]
  case reti =>
    refine ⟨returnFromTrap s, rfl, ?_, returnFromTrap_pc s, onlyChanges_returnFromTrap s⟩
    rw [returnFromTrap_spr, if_pos rfl]

/-! ## GETIID (47_io_and_special.md R247) -/

theorem busIdentifier_of_intReq {s : State} (h : s.env.intReq = true) : busIdentifier s = s.env.iid := if_pos h

/-- The acknowledge and the write to R[d] do not touch the same part of the state, so their order cannot be told. -/
theorem exec_getiid (d : GReg) (s : State) :
    exec (.getiid d) s = .next ((s.setR d (busIdentifier s)).record .inta) := rfl

/-- Settles O57: with no request the word written is a free value. -/
theorem getiidAcknowledges : Obligations.GetiidAcknowledges := by
  intro d s
  refine ⟨rfl, _, exec_getiid d s, fun hreq => ?_, rfl, (onlyChanges_setR s d _).record .inta⟩
  rw [R_record, R_setR_same, busIdentifier_of_intReq hreq]

/-! ## HALT (47_io_and_special.md R261, R262) -/

/-- Settles O59. -/
theorem haltStopsTheMachine : Obligations.HaltStopsTheMachine :=
  ⟨rfl, fun s => ⟨{ s with halted := true }, rfl, rfl, rfl, onlyChanges_setHalted s⟩⟩

/-- Settles O13: `step` looks at the halted condition before the request and before the fetch. -/
theorem haltedMachineStops : Obligations.HaltedMachineStops :=
  fun _ h => step_of_halted h

end Sys2Proof.Machine

/-! PROOFS of the families 60_exceptions.md and 70_reset_and_hazards.md. An instruction that may raise ends in its own write or in
the trap entry, so its frame is the frame of the one or of the other, widened to name both; `exec_onlyChanges` says this once for
every instruction. What an exception does is read off `trapEntry_entersHandler`. -/

namespace Sys2Proof.Machine

/-! ## Widening and composing frames -/

section Frames

variable {w : Touched} {s t : State}

/-- The special registers a frame names may be exchanged for any others outside which none has changed. -/
theorem OnlyChanges.withSpecials (h : OnlyChanges w s t) {ss : List SReg} (hss : ∀ x, x ∉ ss → t.S x = s.S x) :
    OnlyChanges { w with ss := ss } s t :=
  ⟨h.gprs, h.fprs, hss, h.memory, h.outputs, h.history, h.halted, h.env, h.script, h.tick⟩

/-- The frame of an own write is also a frame of an instruction that might have raised. -/
theorem OnlyChanges.orSpecials (h : OnlyChanges w s t) {ss : List SReg} (hss : w.ss ⊆ ss) :
    OnlyChanges { w with ss := ss } s t :=
  h.withSpecials fun x hx => h.sprs x fun hmem => hx (hss hmem)

/-- The frame of an entry is also a frame of an instruction that might have written a destination. -/
theorem OnlyChanges.orDestination {ss : List SReg} (h : OnlyChanges { ss := ss } s t) (gs : List GReg) (fs : List FReg)
    (bytes : List Word) : OnlyChanges { gs := gs, fs := fs, ss := ss, bytes := bytes } s t :=
  ⟨fun r _ => h.gprs r nofun, fun r _ => h.fprs r nofun, h.sprs, fun a _ => h.memory a nofun, h.outputs, h.history, h.halted,
    h.env, h.script, h.tick⟩

theorem OnlyChanges.setS (h : OnlyChanges w s t) (x : SReg) (v : Word) :
    OnlyChanges { w with ss := x :: w.ss } s (t.setS x v) where
  gprs := h.gprs
  fprs := h.fprs
  sprs y hy := by
    obtain ⟨hne, hmem⟩ := List.ne_and_not_mem_of_not_mem_cons hy
    rw [S_setS_other t y x v hne, h.sprs y hmem]
  memory := h.memory
  outputs := h.outputs
  history := h.history
  halted := h.halted
  env := h.env
  script := h.script
  tick := h.tick

end Frames

/-! ## The frame of each shared operation -/

/-- S3 is written for a misaligned access alone (60_exceptions.md R285, step 4). -/
theorem trapEntry_onlyChanges_trapSpecials {c : TrapCause} (hc : ∀ addr, c ≠ .misaligned addr) (ret : Word) (s : State) :
    OnlyChanges { ss := trapSpecials } s (trapEntry c ret s) := by
  have henters := trapEntry_entersHandler c ret s
  refine henters.frame.withSpecials fun x hx => ?_
  by_cases h3 : x = S3
  · rw [h3, henters.keptAddress hc]
  · refine henters.frame.sprs x fun hmem => ?_
    simp only [misalignedSpecials, trapSpecials, List.mem_cons] at hmem hx
    tauto

section SharedFrames

variable (s : State)

/-- An exception without an address, of an instruction that would have written R[d] or F[d]. -/
theorem completes_raise_onlyChanges {c : TrapCause} (gs : List GReg) (fs : List FReg)
    (hc : ∀ addr, c ≠ .misaligned addr) :
    Completes (raise c s) (OnlyChanges { gs := gs, fs := fs, ss := trapSpecials } s) :=
  ⟨_, rfl, (trapEntry_onlyChanges_trapSpecials hc s.pc s).orDestination gs fs []⟩

/-- A misaligned access, of an instruction that would have written a register or the bytes of the item. -/
theorem completes_raise_misaligned_onlyChanges (ea : Word) (gs : List GReg) (fs : List FReg) (bytes : List Word) :
    Completes (raise (.misaligned ea) s)
      (OnlyChanges { gs := gs, fs := fs, ss := misalignedSpecials, bytes := bytes } s) :=
  ⟨_, rfl, (trapEntry_onlyChanges (.misaligned ea) s.pc s).orDestination gs fs bytes⟩

theorem completes_finishFloat_onlyChanges (d : FReg) (o : FloatOutcome) :
    Completes (finishFloat d o s) (OnlyChanges { fs := [d], ss := trapSpecials } s) := by
  have writes (v : Word) : OnlyChanges { fs := [d], ss := trapSpecials } s (s.setF d v) :=
    (onlyChanges_setF s d v).orSpecials (List.nil_subset _)
  obtain ⟨v, -, h⟩ | ⟨-, h⟩ | ⟨-, -, h⟩ | ⟨-, -, h⟩ := finishFloat_cases s d o <;> rw [h]
  · exact ⟨_, rfl, writes v⟩
  · exact completes_raise_onlyChanges s [] [d] nofun
  · exact completes_raise_onlyChanges s [] [d] nofun
  · exact ⟨_, rfl, writes _⟩

theorem completes_loadItem_onlyChanges {put : State → Word → State} {gs : List GReg} {fs : List FReg}
    (hput : ∀ v, OnlyChanges { gs := gs, fs := fs } s (put s v)) (ea : Word) :
    Completes (loadItem ea put s) (OnlyChanges { gs := gs, fs := fs, ss := misalignedSpecials } s) := by
  rw [loadItem_eq]
  split
  · exact completes_raise_misaligned_onlyChanges s ea gs fs []
  · exact ⟨_, rfl, (hput _).orSpecials (List.nil_subset _)⟩

theorem completes_storeItem_onlyChanges (ea v : Word) :
    Completes (storeItem ea v s) (OnlyChanges { bytes := itemBytes ea, ss := misalignedSpecials } s) := by
  rw [storeItem_eq]
  split
  · exact completes_raise_misaligned_onlyChanges s ea [] [] (itemBytes ea)
  · exact ⟨_, rfl, (onlyChanges_writeWord s ea v).orSpecials (List.nil_subset _)⟩

theorem completes_jumpIf_onlyChanges (taken : Bool) (target : Word) : Completes (jumpIf taken target s) (OnlyChanges {} s) := by
  cases taken with
  | false => exact ⟨s, rfl, onlyChanges_refl s⟩
  | true => exact ⟨_, rfl, (onlyChanges_refl s).setPc target⟩

/-- A quotient is written, or the divisor is zero and the handler is entered. -/
theorem completes_divide_onlyChanges (P : Prop) [Decidable P] {d : GReg} {r : Result}
    (hr : Completes r (OnlyChanges { gs := [d] } s)) :
    Completes (if P then raise .intDivZero s else r) (OnlyChanges { gs := [d], ss := trapSpecials } s) := by
  split
  · exact completes_raise_onlyChanges s [d] [] nofun
  · obtain ⟨t, ht, hframe⟩ := hr
    exact ⟨t, ht, hframe.orSpecials (List.nil_subset _)⟩

theorem completes_execDiv_onlyChanges (d a b : GReg) :
    Completes (execDiv d a b s) (OnlyChanges { gs := [d], ss := trapSpecials } s) := by
  refine completes_divide_onlyChanges s (s.R b = 0x0000#16) ?_
  split <;> exact ⟨_, rfl, onlyChanges_setR s d _⟩

theorem completes_execDivu_onlyChanges (d a b : GReg) :
    Completes (execDivu d a b s) (OnlyChanges { gs := [d], ss := trapSpecials } s) :=
  completes_divide_onlyChanges s (s.R b = 0x0000#16) ⟨_, rfl, onlyChanges_setR s d _⟩

end SharedFrames

/-! ## The frame of every instruction (60_exceptions.md R278, R285, R288) -/

/-- Every instruction answers a next state, in which nothing but its own has changed. -/
theorem exec_onlyChanges (i : Instr) (s : State) : Completes (exec i s) (OnlyChanges (touchedBy i s) s) := by
  cases i with
  | and | or | xor | not | add | sub | sha | shl | cmplt | cmple | cmpeq | cmpltu | cmpleu | addi | movi | movhi
  | mul | mulh | mulhu | cmpltf | cmplef | cmpeqf | rds => exact ⟨_, rfl, onlyChanges_setR s _ _⟩
  | div d a b => exact completes_execDiv_onlyChanges s d a b
  | divu d a b => exact completes_execDivu_onlyChanges s d a b
  | addf | subf | mulf | divf => exact completes_finishFloat_onlyChanges s _ _
  | ld d => exact completes_loadItem_onlyChanges s (put := fun t v => t.setR d v) (onlyChanges_setR s d) _
  | ldf d => exact completes_loadItem_onlyChanges s (put := fun t v => t.setF d v) (onlyChanges_setF s d) _
  | st | stf => exact completes_storeItem_onlyChanges s _ _
  | ldb d a n => exact ⟨_, exec_ldb d a n s, onlyChanges_setR s d _⟩
  | stb b a n => exact ⟨_, exec_stb b a n s, onlyChanges_writeByte s _ _⟩
  | bz | bnz | jz | jnz => exact completes_jumpIf_onlyChanges s _ _
  | jmp a => exact ⟨_, rfl, (onlyChanges_refl s).setPc (s.R a)⟩
  | jal d a => exact ⟨_, rfl, (onlyChanges_setR s d s.pc).setPc (s.R a)⟩
  | inp d p => exact ⟨_, rfl, (onlyChanges_setR s d (s.inPort p)).record (.inRead p (s.inPort p))⟩
  | out b p => exact ⟨_, exec_out b p s, (onlyChanges_setOutPort s p _).record _⟩
  | getiid d => exact ⟨_, exec_getiid d s, (onlyChanges_setR s d _).record .inta⟩
  | ei | di => exact ⟨_, rfl, onlyChanges_setS s S7 _⟩
  | reti => exact ⟨_, rfl, onlyChanges_returnFromTrap s⟩
  | wrs x a => exact ⟨_, rfl, onlyChanges_setS s x (s.R a)⟩
  | halt => exact ⟨_, rfl, onlyChanges_setHalted s⟩

/-- Settles O19: the state `exec` answers is the one of `exec_onlyChanges`. -/
theorem everyInstructionChangesOnlyItsOwn : Obligations.EveryInstructionChangesOnlyItsOwn := by
  intro i s t h
  obtain ⟨u, hu, hframe⟩ := exec_onlyChanges i s
  obtain rfl : u = t := by simpa [hu] using h
  exact hframe

/-! ## Entry and return (60_exceptions.md R285, R292) -/

/-- Settles O25: `trapEntry_entersHandler` goes through the seven steps. -/
theorem trapEntrySavesAndEnters : Obligations.TrapEntrySavesAndEnters := trapEntry_entersHandler

section Return

variable (c : TrapCause) (ret : Word) (s : State)

/-- RETI takes back what the entry did to S7 (60_exceptions.md R292). -/
theorem returnFromTrap_trapEntry_S7 : (returnFromTrap (trapEntry c ret s)).S S7 = s.S S7 := by
  rw [returnFromTrap_spr, if_pos rfl, (trapEntry_entersHandler c ret s).savedStatus]

theorem returnFromTrap_spr_other {x : SReg} (hx : x ≠ S7) : (returnFromTrap s).S x = s.S x := by
  rw [returnFromTrap_spr, if_neg hx]

/-- Of an entry and the return from it only what the entry saved in S0 to S3 stays. -/
theorem returnFromTrap_trapEntry_onlyChanges :
    OnlyChanges { ss := [S0, S1, S2, S3] } s (returnFromTrap (trapEntry c ret s)) := by
  refine (((trapEntry_onlyChanges c ret s).setS S7 _).setPc _).withSpecials fun x hx => ?_
  by_cases h7 : x = S7
  · rw [h7]
    exact returnFromTrap_trapEntry_S7 c ret s
  · refine (returnFromTrap_spr_other _ h7).trans (trapEntry_spr_other (fun hmem => hx ?_) c ret s)
    simp only [misalignedSpecials, List.mem_cons] at hmem ⊢
    tauto

end Return

/-- Settles O26: RETI writes S7 and the PC alone, from S0 and S1, which the entry has just written. -/
theorem retiUndoesTheEntry : Obligations.RetiUndoesTheEntry := by
  intro c ret s
  have henters := trapEntry_entersHandler c ret s
  have kept (x : SReg) (hx : x ≠ S7) : (returnFromTrap (trapEntry c ret s)).S x = (trapEntry c ret s).S x :=
    returnFromTrap_spr_other _ hx
  refine ⟨returnFromTrap (trapEntry c ret s), rfl, henters.returnAddr, returnFromTrap_trapEntry_S7 c ret s, ?_, ?_, ?_,
    kept S3 (by decide), returnFromTrap_trapEntry_onlyChanges c ret s⟩
  · exact (kept S0 (by decide)).trans henters.savedStatus
  · exact (kept S1 (by decide)).trans henters.returnAddr
  · exact (kept S2 (by decide)).trans henters.code

/-- Settles O12: the request is looked at before the fetch, and the step is the entry with `pc` not yet advanced. -/
theorem interruptIsTakenAtTheBoundary : Obligations.InterruptIsTakenAtTheBoundary := by
  intro s hrun hreq hI
  have htaken : interruptTaken s = true := by rw [interruptTaken, hI, hreq, Bool.and_self]
  have henters := trapEntry_entersHandler .interrupt s.pc s
  exact ⟨_, henters, henters.code, step_of_interruptTaken hrun htaken⟩

/-! ## The exceptions of division and of floating point (60_exceptions.md R274 to R276) -/

/-- What holds of every state in which the handler is entered holds of the one `raise` answers. -/
theorem completes_raise_enters {c : TrapCause} {s : State} {Q : State → Prop}
    (hQ : ∀ t, EntersHandler c s.pc s t → Q t) : Completes (raise c s) Q :=
  ⟨_, rfl, hQ _ (trapEntry_entersHandler c s.pc s)⟩

theorem EntersHandler.R_eq {c : TrapCause} {ret : Word} {s t : State} (h : EntersHandler c ret s t) (r : GReg) :
    t.R r = s.R r := h.frame.gprs r nofun

theorem EntersHandler.F_eq {c : TrapCause} {ret : Word} {s t : State} (h : EntersHandler c ret s t) (r : FReg) :
    t.F r = s.F r := h.frame.fprs r nofun

section Divide

variable {s : State} {a b : GReg}

theorem exec_div_of_eq_zero (hb : s.R b = 0) (d : GReg) : exec (.div d a b) s = raise .intDivZero s := if_pos hb

theorem exec_divu_of_eq_zero (hb : s.R b = 0) (d : GReg) : exec (.divu d a b) s = raise .intDivZero s := if_pos hb

/-- The one quotient that does not fit is a free value (40_arith_logic.md R136, log entry 1). -/
theorem exec_div_of_overflow (ha : s.R a = 0x8000#16) (hb : s.R b = 0xFFFF#16) (d : GReg) :
    exec (.div d a b) s = .next (s.setR d (Config.divOverflowValue s.tick)) := by
  have hne : s.R b ≠ 0 := by rw [hb]; decide
  exact (if_neg hne).trans (if_pos ⟨ha, hb⟩)

end Divide

/-- Settles O32. -/
theorem divideByZeroRaises : Obligations.DivideByZeroRaises := by
  intro d a b s
  refine ⟨fun hb => ⟨?div, ?divu⟩, fun ha hb => ⟨_, exec_div_of_overflow ha hb d, rfl, onlyChanges_setR s d _⟩⟩
  case div =>
    rw [exec_div_of_eq_zero hb]
    exact completes_raise_enters fun t ht => ⟨ht, ht.code, ht.R_eq d⟩
  case divu =>
    rw [exec_divu_of_eq_zero hb]
    exact completes_raise_enters fun t ht => ⟨ht, ht.code, ht.R_eq d⟩

section FloatOverflow

variable {s : State}

/-- With V = 1 an overflow raises (60_exceptions.md R274). -/
theorem finishFloat_overflow_of_permitted (hV : statusV (s.S S7) = true) (d : FReg) :
    finishFloat d .overflow s = raise .floatOverflow s := if_pos hV

/-- With V = 0 an overflow writes a free value (41_float.md R157, log entry 2). -/
theorem finishFloat_overflow_of_inhibited (hV : statusV (s.S S7) = false) (d : FReg) :
    finishFloat d .overflow s = .next (s.setF d (Config.floatOverflowValue s.tick)) := by
  simp [finishFloat, hV]

end FloatOverflow

/-- Settles O39: the four operations end alike, in `finishFloat` of an overflow. -/
theorem floatOverflowIsMaskable : Obligations.FloatOverflowIsMaskable := by
  intro d a b s i h
  have hexec : exec i s = finishFloat d .overflow s := by
    obtain ⟨rfl, ho⟩ | ⟨rfl, ho⟩ | ⟨rfl, ho⟩ | ⟨rfl, ho⟩ := h <;> exact congrArg (finishFloat d · s) ho
  rw [hexec]
  refine ⟨fun hV => ?permitted, fun hV => ?inhibited⟩
  case permitted =>
    rw [finishFloat_overflow_of_permitted hV]
    exact completes_raise_enters fun t ht => ⟨ht, ht.code, ht.F_eq d⟩
  case inhibited => exact ⟨_, finishFloat_overflow_of_inhibited hV d, rfl, onlyChanges_setF s d _⟩

/-- The divisor is looked at before the dividend, so 0 / 0 divides by zero too (41_float.md R163). -/
theorem refDiv_of_isZero_divisor (x : Word) {y : Word} (hy : fIsZero y = true) : refDiv x y = .divZero := if_pos hy

/-- Settles O40: both zeros have the magnitude 0. -/
theorem floatDivideByZeroRaises : Obligations.FloatDivideByZeroRaises := by
  intro d a b s hb
  have hdiv : refDiv (s.F a) (s.F b) = .divZero := refDiv_of_isZero_divisor _ (beq_iff_eq.mpr hb)
  have hexec : exec (.divf d a b) s = raise .floatDivZero s := congrArg (finishFloat d · s) hdiv
  rw [hexec]
  exact completes_raise_enters fun t ht => ⟨ht, ht.code, ht.F_eq d⟩

/-! ## Reset (70_reset_and_hazards.md R311) -/

/-- Settles O18: the defaults of `RESET_PC` and `RESET_PSW` are 0. -/
theorem resetValues : Obligations.ResetValues := ⟨rfl, rfl, rfl⟩

end Sys2Proof.Machine
